-- ==== Sys2Proof/Word.lean ====
section
/-! DEFINITION. The two word widths of the block: bytes on the wire and 32-bit host words (R7, R9). -/

namespace Sys2Proof

/-- A byte of the frame, of a bus request's argument or of a bus completion. -/
abbrev Byte := BitVec 8

/-- A 32-bit word of the host port (R7: register width 32 bits). -/
abbrev Word := BitVec 32

end Sys2Proof
end

