-- ==== Sys2Proof/Config.lean ====
section
/-! DEFINITION. The implementation parameters of R7: the fixed values, the OPEN ones (constants without a body, so
that nothing in Lean knows a value of them beyond the bounds the spec gives), and the free values of the environment. -/

namespace Sys2Proof

/-- Who moves in a step: the four agents of R49, the reset input of R135, or a provider that hangs: from then on it never
completes a request (R55, R86, U6; log entry 16). -/
inductive Turn where
  | host
  | fsm
  | bus
  | tmr
  | reset
  | busHang
  | tmrHang
  deriving DecidableEq, Repr, Inhabited

namespace Config

/-- `DEV_ADDR` (R7): the 7-bit device address. -/
def devAddr : BitVec 7 := 0x38#7

/-- `INIT_SEQ` (R7, R61), in wire order. -/
def initSeq : List Byte := [0xE1#8, 0x08#8, 0x00#8]

/-- `TRIG_SEQ` (R7, R61), in wire order. -/
def trigSeq : List Byte := [0xAC#8, 0x33#8, 0x00#8]

/-- `FRAME_LEN` (R7). -/
def frameLen : Nat := 6

/-- `STATUS_OK` (R7): the one status byte that marks a valid frame. -/
def statusOk : Byte := 0x19#8

/-- `STATUS_BUSY` (R7). No rule of the block tests for it. -/
def statusBusy : Byte := 0x99#8

/-- What `T_INIT_US` exceeds 10 by: OPEN in 10..99 (R7, D19). Log entry 4. -/
opaque initOver : Fin 90

/-- What `T_MEAS_US` exceeds 10000 by: OPEN in 10000..99999 (R7, D19). Log entry 4. -/
opaque measOver : Fin 90000

/-- `T_INIT_US` (R7), as the delay port carries it. -/
def tInitUs : BitVec 17 := BitVec.ofNat 17 (10 + initOver.val)

/-- `T_MEAS_US` (R7), as the delay port carries it. -/
def tMeasUs : BitVec 17 := BitVec.ofNat 17 (10000 + measOver.val)

/-- `T_POST_US` (R7): OPEN, a natural number that fits the 17-bit request (R59). Log entry 4. -/
opaque tPostUs : BitVec 17

/-- `HI_POLY` (R109): OPEN, a total function of (`s32(TEMP)`, `HUM`) to a rational. Log entry 4. -/
opaque hiPoly : Int → Int → Rat

/-- Which 256-byte page of the host's address space the register window is: `BASE` is OPEN and aligned (R38). Log entry 4. -/
opaque basePage : Nat

/-- `BASE` (R7, R38). -/
def base : Nat := 256 * basePage

/-- The free interleaving of R49, past the end of the moves a State lays down. Log entry 1. -/
opaque freeTurn : Nat → Turn

/-- The free draw of a READ completion (R84), past the end of the bytes a State lays down. Log entry 3. -/
opaque freeByte : Nat → Byte

end Config
end Sys2Proof
end

