-- ==== Sys2Proof/Syntax.lean ====
section
/-! DEFINITION. The block's instructions in R2's sense (host commands, bus and delay operations, host accesses,
datapath steps): one constructor per row of the opcode table; and the five packed forms a datum has (R56). -/

namespace Sys2Proof

/-- One constructor per row of `opcode_table.json`. A command carries the ignored bits [31:3] of its `CTRL` word (R57),
because the event history records the whole word (R34, R41). An offset is the byte offset of R38. -/
inductive Instr where
  | nop (ign : BitVec 29)
  | init (ign : BitVec 29)
  | readRaw (ign : BitVec 29)
  | decode (ign : BitVec 29)
  | derive (ign : BitVec 29)
  | classify (ign : BitVec 29)
  | measure (ign : BitVec 29)
  | reserved (ign : BitVec 29)
  | start
  | stop
  | addrW (addr : BitVec 7)
  | addrR (addr : BitVec 7)
  | write (b : Byte)
  | readAck
  | readNak
  | delay (n : BitVec 17)
  | hostRead (off : BitVec 8) (lanes : Word)
  | hostWrite (off : BitVec 8) (v : Word)
  | dec
  | hic
  | cls
  deriving DecidableEq, Repr

/-- A packed datum, tagged by its format: "the port it appears on tells which format a datum is" (R56). The widths are
R56's; `fsmstate` is the 5-bit `state` code of the table's datapath rows. -/
inductive Datum where
  | ctrl (w : BitVec 32)
  | busop (w : BitVec 12)
  | dlyop (w : BitVec 17)
  | hostacc (w : BitVec 39)
  | fsmstate (w : BitVec 5)
  deriving DecidableEq, Repr

end Sys2Proof
end

