-- ==== Sys2Proof/WellFormed.lean ====
section
/-! DEFINITION. Which instructions have an encoding at all, and which of those the block itself ever issues. -/

namespace Sys2Proof

/-- R39: an offset the host port can express, `off mod 4 = 0`. -/
def wordAligned (off : BitVec 8) : Bool := off.toNat % 4 == 0

/-- Well-formed: the instruction can be written as a datum. Widths are carried by the operands' types; what is left is
the alignment of a host access (R39). -/
def Instr.wf : Instr → Bool
  | .nop _ => true
  | .init _ => true
  | .readRaw _ => true
  | .decode _ => true
  | .derive _ => true
  | .classify _ => true
  | .measure _ => true
  | .reserved _ => true
  | .start => true
  | .stop => true
  | .addrW _ => true
  | .addrR _ => true
  | .write _ => true
  | .readAck => true
  | .readNak => true
  | .delay _ => true
  | .hostRead off _ => wordAligned off
  | .hostWrite off _ => wordAligned off
  | .dec => true
  | .hic => true
  | .cls => true

/-- The port requests the block itself issues: one address (R36), the bytes of the two sequences (R61), the three delays
(R59). No decoding and no meaning depends on it; it is a term for claims. -/
def Instr.issuable : Instr → Bool
  | .start => true
  | .stop => true
  | .addrW a => a == Config.devAddr
  | .addrR a => a == Config.devAddr
  | .write b => b ∈ Config.initSeq ++ Config.trigSeq
  | .readAck => true
  | .readNak => true
  | .delay n => n == Config.tInitUs || n == Config.tMeasUs || n == Config.tPostUs
  | .nop _ => false
  | .init _ => false
  | .readRaw _ => false
  | .decode _ => false
  | .derive _ => false
  | .classify _ => false
  | .measure _ => false
  | .reserved _ => false
  | .hostRead _ _ => false
  | .hostWrite _ _ => false
  | .dec => false
  | .hic => false
  | .cls => false

end Sys2Proof
end

