-- ==== Sys2Proof/Decode.lean ====
section
/-! DEFINITION. Decoding, total on every datum of every format and rejecting by name; then the encoder, written from the
same tables (R56, R57, R58, R59, R60). -/

namespace Sys2Proof

/-- Why a datum is no instruction. -/
inductive Reject where
  /-- Bus opcodes 6 and 7 are never issued (R58, R63). -/
  | busOpcode
  /-- An `arg` or `ack` that R58's table does not give the opcode. -/
  | busOperand
  /-- A `state` code that is no datapath state (R77). -/
  | notDatapath
  deriving DecidableEq, Repr

/-- R57: `CMD[2:0]` selects, bits [31:3] are ignored. The last case is code 7, the only one left. -/
def decodeCtrl (w : BitVec 32) : Instr :=
  let ign := w.extractLsb' 3 29
  match w.extractLsb' 0 3 with
  | 0#3 => .nop ign
  | 1#3 => .init ign
  | 2#3 => .readRaw ign
  | 3#3 => .decode ign
  | 4#3 => .derive ign
  | 5#3 => .classify ign
  | 6#3 => .measure ign
  | _ => .reserved ign

/-- R56, R58: `op` at [11:9], `arg` at [8:1], `ack` at bit 0. Fields the table does not give are rejected: log entry 12. -/
def decodeBusop (w : BitVec 12) : Except Reject Instr :=
  let op := w.extractLsb' 9 3
  let arg := w.extractLsb' 1 8
  let ack := w.getLsbD 0
  if op = 0#3 then if arg = 0#8 ∧ ack = false then .ok .start else .error .busOperand
  else if op = 1#3 then if arg = 0#8 ∧ ack = false then .ok .stop else .error .busOperand
  else if op = 2#3 then
    if arg.getLsbD 7 = false ∧ ack = false then .ok (.addrW (arg.extractLsb' 0 7)) else .error .busOperand
  else if op = 3#3 then
    if arg.getLsbD 7 = false ∧ ack = false then .ok (.addrR (arg.extractLsb' 0 7)) else .error .busOperand
  else if op = 4#3 then if ack = false then .ok (.write arg) else .error .busOperand
  else if op = 5#3 then
    if arg = 0#8 then .ok (if ack = true then .readAck else .readNak) else .error .busOperand
  else .error .busOpcode

/-- R56, R60: `we` at bit 38, `off[7:2]` at [37:32], `data` at [31:0]; the register is at `4 * off[7:2]`. -/
def decodeHostacc (w : BitVec 39) : Instr :=
  let off : BitVec 8 := w.extractLsb' 32 6 ++ 0#2
  let data := w.extractLsb' 0 32
  if w.getLsbD 38 = true then .hostWrite off data else .hostRead off data

/-- The datapath states of R77: the only `state` codes that are rows of the table. -/
def decodeFsmstate (w : BitVec 5) : Except Reject Instr :=
  if w = 25#5 then .ok .dec
  else if w = 26#5 then .ok .hic
  else if w = 27#5 then .ok .cls
  else .error .notDatapath

/-- The decoder: total, by format. No mode changes any decoding (R64). -/
def decode : Datum → Except Reject Instr
  | .ctrl w => .ok (decodeCtrl w)
  | .busop w => decodeBusop w
  | .dlyop w => .ok (.delay w)
  | .hostacc w => .ok (decodeHostacc w)
  | .fsmstate w => decodeFsmstate w

/-- R56: `CTRL` has `CMD` at bits [2:0]. -/
def ctrlWord (ign : BitVec 29) (code : BitVec 3) : BitVec 32 := ign ++ code

/-- R56: `BUSOP` has `op` at [11:9], `arg` at [8:1], `ack` at bit 0. -/
def busopWord (op : BitVec 3) (arg : Byte) (ack : Bool) : BitVec 12 := op ++ arg ++ BitVec.ofBool ack

/-- R56: `HOSTACC` has `we` at bit 38, `off[7:2]` at [37:32], `data` at [31:0]. -/
def hostaccWord (we : Bool) (off : BitVec 8) (data : Word) : BitVec 39 :=
  BitVec.ofBool we ++ off.extractLsb' 2 6 ++ data

/-- The word of an instruction, from R57, R58, R59 and R60. -/
def encode : Instr → Datum
  | .nop ign => .ctrl (ctrlWord ign 0#3)
  | .init ign => .ctrl (ctrlWord ign 1#3)
  | .readRaw ign => .ctrl (ctrlWord ign 2#3)
  | .decode ign => .ctrl (ctrlWord ign 3#3)
  | .derive ign => .ctrl (ctrlWord ign 4#3)
  | .classify ign => .ctrl (ctrlWord ign 5#3)
  | .measure ign => .ctrl (ctrlWord ign 6#3)
  | .reserved ign => .ctrl (ctrlWord ign 7#3)
  | .start => .busop (busopWord 0#3 0#8 false)
  | .stop => .busop (busopWord 1#3 0#8 false)
  | .addrW a => .busop (busopWord 2#3 (0#1 ++ a) false)
  | .addrR a => .busop (busopWord 3#3 (0#1 ++ a) false)
  | .write b => .busop (busopWord 4#3 b false)
  | .readAck => .busop (busopWord 5#3 0#8 true)
  | .readNak => .busop (busopWord 5#3 0#8 false)
  | .delay n => .dlyop n
  | .hostRead off lanes => .hostacc (hostaccWord false off lanes)
  | .hostWrite off v => .hostacc (hostaccWord true off v)
  | .dec => .fsmstate 25#5
  | .hic => .fsmstate 26#5
  | .cls => .fsmstate 27#5

/-- The datum a table row's word stands for. The five formats have five lengths (R56), 5, 12, 17, 32 and 39 bits, that is
1 to 5 whole bytes, so the number of bits names the format; a number too large for its format is no datum.
DESIGN CHOICE, log entry 10. -/
def tableDatum (nbits w : Nat) : Option Datum :=
  if nbits ≤ 8 then if w < 2 ^ 5 then some (.fsmstate (BitVec.ofNat 5 w)) else none
  else if nbits ≤ 16 then if w < 2 ^ 12 then some (.busop (BitVec.ofNat 12 w)) else none
  else if nbits ≤ 24 then if w < 2 ^ 17 then some (.dlyop (BitVec.ofNat 17 w)) else none
  else if nbits ≤ 32 then if w < 2 ^ 32 then some (.ctrl (BitVec.ofNat 32 w)) else none
  else if nbits ≤ 40 then if w < 2 ^ 39 then some (.hostacc (BitVec.ofNat 39 w)) else none
  else none

/-- The instruction the decoder reads from a table row's word. -/
def decodeTableWord (nbits w : Nat) : Option Instr :=
  match tableDatum nbits w with
  | none => none
  | some d =>
    match decode d with
    | .ok i => some i
    | .error _ => none

end Sys2Proof
end

