-- ==== Sys2Proof/Machine/State.lean ====
section
/-! DEFINITION. The state of the block (R15: these elements "and nothing else"), the plain data its environment is laid
down in, the reasons a step can stop, and the state after reset (R37). -/

namespace Sys2Proof.Machine

/-- The FSM state register of R29, its 28 named codes and the four unused ones (28 + k). -/
inductive FsmState where
  | idle
  | iStart | iAddr | iCmd0 | iCmd1 | iCmd2 | iStop | iWait
  | tStart | tAddr | tCmd0 | tCmd1 | tCmd2 | tStop | tWait
  | rStart | rAddr | rB0 | rB1 | rB2 | rB3 | rB4 | rB5 | rStop | rWait
  | dec | hic | cls
  | unused (k : Fin 4)
  deriving DecidableEq, Repr

/-- A provider request (R33): on the bus port `Bus(op, arg, ack)`, on the delay port `Delay(n)`. -/
inductive Request where
  | bus (op : BitVec 3) (arg : Byte) (ack : Bool)
  | delay (n : BitVec 17)
  deriving DecidableEq, Repr

/-- The events of `trace` (R34). -/
inductive Event where
  | issue (r : Request)
  | complete (r : Request) (rdata : Byte)
  | hostRead (off : BitVec 8) (v : Word)
  | hostWrite (off : BitVec 8) (v : Word)
  deriving DecidableEq, Repr

/-- The three recorded errors (R118). -/
inductive ErrCause where
  | pre
  | ovr
  | rsv
  deriving DecidableEq, Repr

/-- The stored `ERR` register (R27). Its reserved bits are no storage: they read as 0. -/
structure Err where
  pre : Bool
  ovr : Bool
  rsv : Bool
  cause : BitVec 4
  deriving DecidableEq, Repr

/-- The six raw frame bytes in wire order (R15, R42). -/
structure Frame where
  b0 : Byte
  b1 : Byte
  b2 : Byte
  b3 : Byte
  b4 : Byte
  b5 : Byte
  deriving DecidableEq, Repr

/-- The closed set of comfort bands (R14, R24). -/
inductive ComfortBand where
  | freezing
  | veryCold
  | cold
  | nice
  | veryWarm
  | hot
  deriving DecidableEq, Repr

/-- One access of a host program: the forms of R65 and R11, and a packed datum already at the port (R56). -/
inductive HostOp where
  /-- The data of a host write to offset `0x00`, in the `CTRL` format. -/
  | command (w : Word)
  /-- A `HOSTACC` access. -/
  | access (w : BitVec 39)
  /-- `MemRead(addr, n)` on the platform's bus (R11). -/
  | memRead (addr n : Nat)
  /-- `MemWrite(addr, n, v)` on the platform's bus (R11). -/
  | memWrite (addr n : Nat) (v : Word)
  /-- `POLL off, mask, val`: repeat the read until `(v & mask) = val` (R65). -/
  | poll (off : BitVec 8) (mask val : Word)
  deriving DecidableEq, Repr

/-- The state: the block's elements (R15), then the environment as plain data (log entries 1, 2, 3 and 16). -/
structure State where
  /-- `state` (R29), the block's program counter. -/
  state : FsmState
  /-- `cmd` (R30). -/
  cmd : BitVec 3
  /-- `INITD` (R31). -/
  initd : Bool
  /-- `DONE` (R32). -/
  done : Bool
  /-- `req` (R33). -/
  req : Option Request
  /-- `cpl` (R33). -/
  cpl : Option Byte
  /-- `ERR` (R27). -/
  err : Err
  /-- `frame[0..5]` (R17, R18). -/
  frame : Frame
  /-- `RAWH[19:0]` (R19). -/
  rawh : BitVec 20
  /-- `RAWT[19:0]` (R20). -/
  rawt : BitVec 20
  /-- `TEMP` (R21). -/
  temp : Word
  /-- `HUM` (R22). -/
  hum : Word
  /-- `HI` (R23). -/
  hi : Word
  /-- `BAND[2:0]` (R24). -/
  band : BitVec 3
  /-- `trace` (R34), oldest event first. -/
  trace : List Event
  /-- The model's own: who moves next, in order (log entry 1). -/
  turns : List Turn
  /-- The model's own: what is left of the host program (log entry 2). -/
  host : List HostOp
  /-- The model's own: the bytes the sensor drives next (log entry 3). -/
  sensor : List Byte
  /-- The model's own: how many free values have been drawn (log entry 3). -/
  drawn : Nat
  /-- The model's own: the bus provider never completes a request again (R86, U6; log entry 16). -/
  busHung : Bool
  /-- The model's own: the timing provider never completes a request again (R86; log entry 16). -/
  tmrHung : Bool
  deriving DecidableEq, Repr

/-- The reasons the machine would stop with a fault. There are none: the block's three errors are recorded in `ERR` and
it goes on (R118, R119, R127), bus failures are not detected (R123), and no rule stops it. -/
inductive Fault where
  deriving DecidableEq, Repr

/-- The reasons a step has no meaning. -/
inductive Refusal where
  /-- Raised only by an arm of `exec` whose instruction has no meaning yet. Safe. -/
  | notModelled (mnemonic : String)
  /-- Raised by the FSM's turn in state codes 28 to 31, which a model refuses (R83, V7). Safe: the hardware goes on to IDLE.
  Log entry 6. -/
  | unusedState
  /-- Raised by a provider's turn on a request word that is no row of R58's table, never issued (R58, R63, V6). Safe.
  Log entry 12. -/
  | undecodable (why : Reject)
  /-- Raised by a host access that is not one aligned 32-bit word: "A model refuses such an access: it has no step" (R39). Safe.
  Log entry 7. -/
  | notWordAccess
  /-- Raised by a platform access outside the 256-byte window at `BASE`, which does not reach the block (R36, R38). Safe.
  Log entry 7. -/
  | outsideWindow
  deriving DecidableEq, Repr

/-- The state right after reset (R37). The last six fields are the environment's: nothing laid
down, and no provider hung (log entries 1, 2, 3 and 16). -/
def State.reset : State where
  state := .idle
  cmd := 0#3
  initd := false
  done := false
  req := none
  cpl := none
  err := ⟨false, false, false, 0#4⟩
  frame := ⟨0#8, 0#8, 0#8, 0#8, 0#8, 0#8⟩
  rawh := 0#20
  rawt := 0#20
  temp := 0#32
  hum := 0#32
  hi := 0#32
  band := 7#3
  trace := []
  turns := []
  host := []
  sensor := []
  drawn := 0
  busHung := false
  tmrHung := false

end Sys2Proof.Machine
end

