-- ==== Sys2Proof/Machine/Operands.lean ====
section
/-! DEFINITION. Operand assembly (R62): the integer readings of R9, the codes of the FSM states (R29), the packing of frame
bytes into host words (R45), and the request word of a provider port (R58, R59). -/

namespace Sys2Proof.Machine

/-- `s32(w)` (R9): the signed value of a word. -/
def s32 (w : Word) : Int := w.toInt

/-- `wrap32(n)` (R9): the word `n mod 2^32`. -/
def wrap32 (n : Int) : Word := BitVec.ofInt 32 n

/-- `zext_32` (R9). -/
def zext32 {n : Nat} (v : BitVec n) : Word := v.setWidth 32

/-- `CMD = data[2:0]` (R57, R62). -/
def cmdField (v : Word) : BitVec 3 := v.extractLsb' 0 3

/-- The code of a state (R29). -/
def FsmState.code : FsmState → BitVec 5
  | .idle => 0#5
  | .iStart => 1#5
  | .iAddr => 2#5
  | .iCmd0 => 3#5
  | .iCmd1 => 4#5
  | .iCmd2 => 5#5
  | .iStop => 6#5
  | .iWait => 7#5
  | .tStart => 8#5
  | .tAddr => 9#5
  | .tCmd0 => 10#5
  | .tCmd1 => 11#5
  | .tCmd2 => 12#5
  | .tStop => 13#5
  | .tWait => 14#5
  | .rStart => 15#5
  | .rAddr => 16#5
  | .rB0 => 17#5
  | .rB1 => 18#5
  | .rB2 => 19#5
  | .rB3 => 20#5
  | .rB4 => 21#5
  | .rB5 => 22#5
  | .rStop => 23#5
  | .rWait => 24#5
  | .dec => 25#5
  | .hic => 26#5
  | .cls => 27#5
  | .unused k => BitVec.ofNat 5 (28 + k.val)

/-- The state a code names (R29): the inverse of `FsmState.code`. The last case is codes 28 to 31. -/
def FsmState.ofCode (c : BitVec 5) : FsmState :=
  match c.toNat with
  | 0 => .idle
  | 1 => .iStart
  | 2 => .iAddr
  | 3 => .iCmd0
  | 4 => .iCmd1
  | 5 => .iCmd2
  | 6 => .iStop
  | 7 => .iWait
  | 8 => .tStart
  | 9 => .tAddr
  | 10 => .tCmd0
  | 11 => .tCmd1
  | 12 => .tCmd2
  | 13 => .tStop
  | 14 => .tWait
  | 15 => .rStart
  | 16 => .rAddr
  | 17 => .rB0
  | 18 => .rB1
  | 19 => .rB2
  | 20 => .rB3
  | 21 => .rB4
  | 22 => .rB5
  | 23 => .rStop
  | 24 => .rWait
  | 25 => .dec
  | 26 => .hic
  | 27 => .cls
  | k => .unused (Fin.ofNat 4 (k - 28))

/-- `FRAME0` as read (R17, R45). -/
def Frame.word0 (f : Frame) : Word := f.b3 ++ f.b2 ++ f.b1 ++ f.b0

/-- `FRAME1` as read: bits [31:16] read as 0 (R18, R45). -/
def Frame.word1 (f : Frame) : Word := 0#16 ++ f.b5 ++ f.b4

/-- A host write of `FRAME0` (R17, R41). -/
def Frame.setWord0 (f : Frame) (v : Word) : Frame :=
  { f with b0 := v.extractLsb' 0 8, b1 := v.extractLsb' 8 8, b2 := v.extractLsb' 16 8, b3 := v.extractLsb' 24 8 }

/-- A host write of `FRAME1`: bits [31:16] are ignored (R18, R41). -/
def Frame.setWord1 (f : Frame) (v : Word) : Frame :=
  { f with b4 := v.extractLsb' 0 8, b5 := v.extractLsb' 8 8 }

/-- The packed word of a provider request (R56, R58, R59). -/
def Request.datum : Request → Datum
  | .bus op arg ack => .busop (busopWord op arg ack)
  | .delay n => .dlyop n

/-- The request a `BUSOP` word is (R56). -/
def busopRequest (w : BitVec 12) : Request := .bus (w.extractLsb' 9 3) (w.extractLsb' 1 8) (w.getLsbD 0)

/-- The platform in front of the port (R11, R38, R39): a host access of `n` bytes at `addr` reaches the port only inside
the window and only as one aligned word. -/
def platformOffset (addr n : Nat) : Except Refusal (BitVec 8) :=
  if addr < Config.base ∨ Config.base + 256 ≤ addr then .error .outsideWindow
  else if n ≠ 4 ∨ (addr - Config.base) % 4 ≠ 0 then .error .notWordAccess
  else .ok (BitVec.ofNat 8 (addr - Config.base))

end Sys2Proof.Machine
end

