-- ==== Sys2Proof/Machine/Flags.lean ====
section
/-! DEFINITION. The flags (R28) and the two words they are read in, `STATUS` (R26) and `ERR` (R27). Each is a view. -/

namespace Sys2Proof.Machine

/-- `BUSY` (R26): `state` ≠ IDLE. -/
def State.busy (s : State) : Bool := decide (s.state ≠ .idle)

/-- `VALID` (R26, R102): `frame[0] = 0x19`. -/
def State.valid (s : State) : Bool := s.frame.b0 == Config.statusOk

/-- `ERRS` (R26): `ERR[2:0]` ≠ 0. -/
def State.errs (s : State) : Bool := s.err.pre || s.err.ovr || s.err.rsv

/-- `STATUS` (R26): `BUSY` [0], `DONE` [1], `INITD` [2], `VALID` [3], `ERRS` [4], 0 [7:5], `STATE` [12:8], 0 [31:13]. -/
def State.statusWord (s : State) : Word :=
  0#19 ++ s.state.code ++ 0#3 ++ BitVec.ofBool s.errs ++ BitVec.ofBool s.valid ++ BitVec.ofBool s.initd
    ++ BitVec.ofBool s.done ++ BitVec.ofBool s.busy

/-- `ERR` (R27): `PRE` [0], `OVR` [1], `RSV` [2], 0 [3], `CAUSE` [7:4], 0 [31:8]. -/
def Err.word (e : Err) : Word :=
  0#24 ++ e.cause ++ 0#1 ++ BitVec.ofBool e.rsv ++ BitVec.ofBool e.ovr ++ BitVec.ofBool e.pre

/-- `code(c)` (R119). -/
def ErrCause.code : ErrCause → BitVec 4
  | .pre => 1#4
  | .ovr => 2#4
  | .rsv => 3#4

/-- `ERR` after `raise Error(c)` (R119): the bit is set, and `CAUSE` only if it was 0. -/
def Err.record (e : Err) (c : ErrCause) : Err where
  pre := e.pre || c == .pre
  ovr := e.ovr || c == .ovr
  rsv := e.rsv || c == .rsv
  cause := if e.cause = 0#4 then c.code else e.cause

end Sys2Proof.Machine
end

