-- ==== Sys2Proof/Machine/Ops.lean ====
section
/-! DEFINITION. The named operations every meaning is made of: recording an event, raising an error, entering an FSM state
(R78) with the request table (R29) and the next-state function (R79), issuing and accepting a command (R66, R67), the
register view (R38, R40), the provider completions (R84, R85) and reset (R135, R136). -/

namespace Sys2Proof.Machine

/-- What a step of this machine answers. -/
abbrev Result := Host.Outcome State Fault Refusal

/-- Append one event to the history (R34). -/
def logEvent (e : Event) (s : State) : State := { s with trace := s.trace ++ [e] }

/-- `raise Error(c)` (R119), the block's whole error entry: it records the error in `ERR` and changes nothing else. It
saves nothing and transfers no control (R126). There is no return operation beside it: none exists (R127). -/
def raiseError (c : ErrCause) (s : State) : State := { s with err := s.err.record c }

/-- `START` as a request (R58). -/
def reqStart : Request := .bus 0#3 0#8 false

/-- `STOP` as a request (R58). -/
def reqStop : Request := .bus 1#3 0#8 false

/-- `ADDR_W` as a request (R58): `arg[6:0]` is the address, `arg[7]` is 0. -/
def reqAddrW (a : BitVec 7) : Request := .bus 2#3 (0#1 ++ a) false

/-- `ADDR_R` as a request (R58). -/
def reqAddrR (a : BitVec 7) : Request := .bus 3#3 (0#1 ++ a) false

/-- `WRITE` as a request (R58). -/
def reqWrite (b : Byte) : Request := .bus 4#3 b false

/-- `READ` as a request (R58): `ack` = 1 says "continue", 0 "this is the final byte". -/
def reqRead (ack : Bool) : Request := .bus 5#3 0#8 ack

/-- `reqOf(s)` (R29): the request issued on entry to a request state, none for the others. -/
def reqOf : FsmState → Option Request
  | .idle => none
  | .iStart => some reqStart
  | .iAddr => some (reqAddrW Config.devAddr)
  | .iCmd0 => some (reqWrite 0xE1#8)
  | .iCmd1 => some (reqWrite 0x08#8)
  | .iCmd2 => some (reqWrite 0x00#8)
  | .iStop => some reqStop
  | .iWait => some (.delay Config.tInitUs)
  | .tStart => some reqStart
  | .tAddr => some (reqAddrW Config.devAddr)
  | .tCmd0 => some (reqWrite 0xAC#8)
  | .tCmd1 => some (reqWrite 0x33#8)
  | .tCmd2 => some (reqWrite 0x00#8)
  | .tStop => some reqStop
  | .tWait => some (.delay Config.tMeasUs)
  | .rStart => some reqStart
  | .rAddr => some (reqAddrR Config.devAddr)
  | .rB0 => some (reqRead true)
  | .rB1 => some (reqRead true)
  | .rB2 => some (reqRead true)
  | .rB3 => some (reqRead true)
  | .rB4 => some (reqRead true)
  | .rB5 => some (reqRead false)
  | .rStop => some reqStop
  | .rWait => some (.delay Config.tPostUs)
  | .dec => none
  | .hic => none
  | .cls => none
  | .unused _ => none

/-- `next(s)` (R79), a function of `state` and `cmd` only. IDLE and the unused codes have no step: no operation asks for
their successor, and they stand here as their own (log entry 14). -/
def nextState (st : FsmState) (cmd : BitVec 3) : FsmState :=
  match st with
  | .idle => .idle
  | .iStart => .iAddr
  | .iAddr => .iCmd0
  | .iCmd0 => .iCmd1
  | .iCmd1 => .iCmd2
  | .iCmd2 => .iStop
  | .iStop => .iWait
  | .iWait => .idle
  | .tStart => .tAddr
  | .tAddr => .tCmd0
  | .tCmd0 => .tCmd1
  | .tCmd1 => .tCmd2
  | .tCmd2 => .tStop
  | .tStop => .tWait
  | .tWait => .rStart
  | .rStart => .rAddr
  | .rAddr => .rB0
  | .rB0 => .rB1
  | .rB1 => .rB2
  | .rB2 => .rB3
  | .rB3 => .rB4
  | .rB4 => .rB5
  | .rB5 => .rStop
  | .rStop => .rWait
  | .rWait => if cmd = 6#3 then .dec else .idle
  | .dec => if cmd = 6#3 then .hic else .idle
  | .hic => .cls
  | .cls => .idle
  | .unused k => .unused k

/-- `enter(s)` (R78). -/
def enter (st : FsmState) (s : State) : State :=
  if st = .idle then { s with state := .idle, req := none, cpl := none, done := true }
  else
    match reqOf st with
    | some r => { s with state := st, req := some r, cpl := none, trace := s.trace ++ [.issue r] }
    | none => { s with state := st, req := none, cpl := none }

/-- `first(c)` (R67). Codes 0 and 7 are never accepted (R66); IDLE stands for them here (log entry 14). -/
def firstState (c : BitVec 3) : FsmState :=
  match c with
  | 1#3 => .iStart
  | 2#3 => .tStart
  | 3#3 => .dec
  | 4#3 => .hic
  | 5#3 => .cls
  | 6#3 => .tStart
  | _ => .idle

/-- `Accept(c)` (R67). -/
def accept (c : BitVec 3) (s : State) : State :=
  enter (firstState c) { s with cmd := c, done := false, initd := s.initd || c == 1#3 }

/-- `CommandIssue(c)` (R66): the first check that applies decides. -/
def commandIssue (c : BitVec 3) (s : State) : State :=
  if c = 0#3 then s
  else if s.state ≠ .idle then raiseError .ovr s
  else if c = 7#3 then raiseError .rsv s
  else if (c = 2#3 ∨ c = 6#3) ∧ s.initd = false then raiseError .pre s
  else if c = 1#3 ∧ s.initd = true then raiseError .pre s
  else accept c s

/-- A host write of `v` to `CTRL` (R41, R66). -/
def ctrlWrite (v : Word) (s : State) : State :=
  commandIssue (cmdField v) (logEvent (.hostWrite 0x00#8 v) s)

/-- `view(off)` (R38, R40): what the register at `off` shows; `CTRL` and reserved offsets read 0. -/
def regView (s : State) (off : BitVec 8) : Word :=
  match off with
  | 0x04#8 => s.statusWord
  | 0x08#8 => s.err.word
  | 0x0C#8 => s.frame.word0
  | 0x10#8 => s.frame.word1
  | 0x14#8 => zext32 s.rawh
  | 0x18#8 => zext32 s.rawt
  | 0x1C#8 => s.temp
  | 0x20#8 => s.hum
  | 0x24#8 => s.hi
  | 0x28#8 => zext32 s.band
  | _ => 0#32

/-- A host write to one of `FRAME0`, `FRAME1`, `HI` (R41): dropped with `OVR` while busy (R121). -/
def dataWrite (f : State → State) (s : State) : State :=
  if s.state ≠ .idle then raiseError .ovr s else f s

/-- The effect of `HostWrite(off, v)` after its event is recorded (R41). -/
def hostWriteEffect (off : BitVec 8) (v : Word) (s : State) : State :=
  match off with
  | 0x00#8 => commandIssue (cmdField v) s
  | 0x0C#8 => dataWrite (fun s => { s with frame := s.frame.setWord0 v }) s
  | 0x10#8 => dataWrite (fun s => { s with frame := s.frame.setWord1 v }) s
  | 0x24#8 => dataWrite (fun s => { s with hi := v }) s
  | _ => s

/-- The draw of a READ completion (R84): the next byte the sensor drives, any byte at all. Log entry 3. -/
def drawByte (s : State) : Byte × State :=
  match s.sensor with
  | d :: rest => (d, { s with sensor := rest })
  | [] => (Config.freeByte s.drawn, { s with drawn := s.drawn + 1 })

/-- A provider completes request `r` with `rdata` (R84, R85). -/
def complete (r : Request) (rdata : Byte) (s : State) : State :=
  { s with cpl := some rdata, trace := s.trace ++ [.complete r rdata] }

/-- The enabling condition of R84 and R85: `r` is outstanding and not yet completed. -/
def awaits (r : Request) (s : State) : Prop := s.req = some r ∧ s.cpl = none

/-- A completion that carries nothing (R84 for every operation but READ, R85). When `r` is not outstanding the block
ignores the completion input (R136; log entry 5). -/
def completePlain (r : Request) (s : State) : State :=
  if s.req = some r ∧ s.cpl = none then complete r 0#8 s else s

/-- A READ completion (R84): it carries the drawn byte. Ignored when `r` is not outstanding (R136; log entry 5). -/
def completeRead (r : Request) (s : State) : State :=
  if s.req = some r ∧ s.cpl = none then complete r (drawByte s).1 (drawByte s).2 else s

/-- `effect(s, d)` (R81): in `R_Bi` the byte goes to `frame[i]`; nothing in every other request state. -/
def readEffect (st : FsmState) (d : Byte) (s : State) : State :=
  match st with
  | .rB0 => { s with frame := { s.frame with b0 := d } }
  | .rB1 => { s with frame := { s.frame with b1 := d } }
  | .rB2 => { s with frame := { s.frame with b2 := d } }
  | .rB3 => { s with frame := { s.frame with b3 := d } }
  | .rB4 => { s with frame := { s.frame with b4 := d } }
  | .rB5 => { s with frame := { s.frame with b5 := d } }
  | _ => s

/-- `FsmReqStep(s, d)` (R80): the FSM consumes a completion and enters the next state. -/
def fsmReqStep (d : Byte) (s : State) : State :=
  enter (nextState s.state s.cmd) (readEffect s.state d s)

/-- Reset (R135, R136): every element of the block takes its value of R37, the outstanding request is abandoned, and no
request is issued. The environment's own data stays. -/
def resetBlock (s : State) : State :=
  { State.reset with
    turns := s.turns, host := s.host, sensor := s.sensor, drawn := s.drawn,
    busHung := s.busHung, tmrHung := s.tmrHung }

end Sys2Proof.Machine
end

