-- ==== Sys2Proof/Machine/BusOps.lean ====
section
/-! DEFINITION. The bus operations and the delay operation (R87 to R94): a provider performs the outstanding request and
completes it (R84, R85). That a request is issued is the FSM's step (R78); that its byte reaches the frame is the FSM's
next step (R81). -/

namespace Sys2Proof.Machine

/-- `START` (R87). -/
def execStart (s : State) : Result := .next (completePlain reqStart s)

/-- `STOP` (R88). -/
def execStop (s : State) : Result := .next (completePlain reqStop s)

/-- `ADDR_W` (R89). -/
def execAddrW (addr : BitVec 7) (s : State) : Result := .next (completePlain (reqAddrW addr) s)

/-- `ADDR_R` (R90). -/
def execAddrR (addr : BitVec 7) (s : State) : Result := .next (completePlain (reqAddrR addr) s)

/-- `WRITE` (R91). -/
def execWrite (b : Byte) (s : State) : Result := .next (completePlain (reqWrite b) s)

/-- `READ` with ack (R92). -/
def execReadAck (s : State) : Result := .next (completeRead (reqRead true) s)

/-- `READ` with not-acknowledge (R93). -/
def execReadNak (s : State) : Result := .next (completeRead (reqRead false) s)

/-- `DELAY` (R94, R85). The model has no time. -/
def execDelay (n : BitVec 17) (s : State) : Result := .next (completePlain (.delay n) s)

end Sys2Proof.Machine
end

