-- ==== Sys2Proof/Machine/Comfort.lean ====
section
/-! DEFINITION. The comfort unit: the reference heat index (R110), rounding half away from zero (R111), the HIC step (R112),
the classifier (R114) and the CLS step (R115). -/

namespace Sys2Proof.Machine

/-- The nine-term regression of R110, exact over the rationals. -/
def heatRegression (t r : Rat) : Rat :=
  -8.78469475556 + 1.61139411 * t + 2.33854883889 * r - 0.14611605 * t * r - 0.012308094 * t ^ 2
    - 0.0164248277778 * r ^ 2 + 0.002211732 * t ^ 2 * r + 0.00072546 * t * r ^ 2 - 0.000003582 * t ^ 2 * r ^ 2

/-- `HI_REF` (R110) with `t = TEMP/100` and `r = HUM` (R108). It is the reference instance of `HI_POLY` only; the
machine's HIC step uses `Config.hiPoly`. Log entry 4. -/
def hiRef (temp hum : Int) : Rat := heatRegression ((temp : Rat) / 100) (hum : Rat)

/-- `RHAZ(x)` (R111): round half away from zero. -/
def rhaz (x : Rat) : Int := if 0 ≤ x then (x + 1 / 2).floor else -(-x + 1 / 2).floor

/-- The register write of HIC (R112) for any instance `poly` of `HI_POLY` (R109). -/
def writeHeatIndex (poly : Int → Int → Rat) (s : State) : State :=
  { s with hi := wrap32 (rhaz (poly (s32 s.temp) (s.hum.toNat : Int))) }

/-- `HIC` (R112): total, reads neither `VALID` nor `INITD`, and always enters CLS. -/
def execHic (s : State) : Result := .next (enter .cls (writeHeatIndex Config.hiPoly s))

/-- `CLASSIFY(h)` (R114): the first test that holds decides. -/
def classifyBand (h : Int) : ComfortBand :=
  if h < 1 then .freezing
  else if h < 11 then .veryCold
  else if h < 18 then .cold
  else if h < 28 then .nice
  else if h < 35 then .veryWarm
  else .hot

/-- The code of a band (R24, R114). -/
def ComfortBand.code : ComfortBand → BitVec 3
  | .freezing => 0#3
  | .veryCold => 1#3
  | .cold => 2#3
  | .nice => 3#3
  | .veryWarm => 4#3
  | .hot => 5#3

/-- The register write of CLS (R115): the comparison is signed. -/
def writeBand (s : State) : State := { s with band := (classifyBand (s32 s.hi)).code }

/-- `CLS` (R115). -/
def execCls (s : State) : Result := .next (enter .idle (writeBand s))

end Sys2Proof.Machine
end

