-- ==== Sys2Proof/Machine/Commands.lean ====
section
/-! DEFINITION. The host commands (R68 to R75): a host write of the command's word to `CTRL`. The checks, their order and
the acceptance are `commandIssue` (R66, R67); what an accepted command then does is the FSM's (R79). -/

namespace Sys2Proof.Machine

/-- `NOP` (R68): no effect, in any state. -/
def execNop (ign : BitVec 29) (s : State) : Result := .next (ctrlWrite (ctrlWord ign 0#3) s)

/-- `INIT` (R69). -/
def execInit (ign : BitVec 29) (s : State) : Result := .next (ctrlWrite (ctrlWord ign 1#3) s)

/-- `READ_RAW` (R70). -/
def execReadRaw (ign : BitVec 29) (s : State) : Result := .next (ctrlWrite (ctrlWord ign 2#3) s)

/-- `DECODE` (R71). -/
def execDecode (ign : BitVec 29) (s : State) : Result := .next (ctrlWrite (ctrlWord ign 3#3) s)

/-- `DERIVE` (R72). -/
def execDerive (ign : BitVec 29) (s : State) : Result := .next (ctrlWrite (ctrlWord ign 4#3) s)

/-- `CLASSIFY` (R73). -/
def execClassify (ign : BitVec 29) (s : State) : Result := .next (ctrlWrite (ctrlWord ign 5#3) s)

/-- `MEASURE` (R74). -/
def execMeasure (ign : BitVec 29) (s : State) : Result := .next (ctrlWrite (ctrlWord ign 6#3) s)

/-- The reserved command (R75): `RSV`, or `OVR` while busy. -/
def execReserved (ign : BitVec 29) (s : State) : Result := .next (ctrlWrite (ctrlWord ign 7#3) s)

end Sys2Proof.Machine
end

