-- ==== Sys2Proof/Machine/Decoder.lean ====
section
/-! DEFINITION. The fixed-point decoder: field extraction (R100, R101), scaling by truncating division (R103, R104) and the
DEC step (R99). -/

namespace Sys2Proof.Machine

/-- The humidity field (R100): `(frame[1]:frame[2]:frame[3]) >> 4`, 20 bits. -/
def humidRaw (f : Frame) : BitVec 20 := (f.b1 ++ f.b2 ++ f.b3).extractLsb' 4 20

/-- The temperature field (R101): `frame[3][3:0]:frame[4]:frame[5]`, 20 bits. -/
def tempRaw (f : Frame) : BitVec 20 := f.b3.extractLsb' 0 4 ++ f.b4 ++ f.b5

/-- Centi-temperature (R103): the product is divided first, and 5000 is subtracted after. -/
def centiTemp (tr : BitVec 20) : Int := ((tr.toNat * 625 / 32768 : Nat) : Int) - 5000

/-- Humidity in whole percent (R104, C1). -/
def humPercent (hr : BitVec 20) : Nat := hr.toNat / 10486

/-- The register writes of DEC (R99). -/
def decodeFrame (s : State) : State :=
  { s with
    rawh := humidRaw s.frame
    rawt := tempRaw s.frame
    temp := wrap32 (centiTemp (tempRaw s.frame))
    hum := BitVec.ofNat 32 (humPercent (humidRaw s.frame)) }

/-- `DEC` (R99): whatever the status byte is (R102). -/
def execDec (s : State) : Result := .next (enter (nextState .dec s.cmd) (decodeFrame s))

end Sys2Proof.Machine
end

