-- ==== Sys2Proof/Machine/HostAccess.lean ====
section
/-! DEFINITION. The host accesses (R40, R41). One whose offset is no word offset does not exist at the port: it is refused
(R39). -/

namespace Sys2Proof.Machine

/-- `HostRead(off)` (R40): the response is in the event, and nothing else changes. The data lanes of a read carry the
response (R60): what the request has there is not read. -/
def execHostRead (off : BitVec 8) (_lanes : Word) (s : State) : Result :=
  if wordAligned off = true then .next (logEvent (.hostRead off (regView s off)) s) else .refused .notWordAccess

/-- `HostWrite(off, v)` (R41). -/
def execHostWrite (off : BitVec 8) (v : Word) (s : State) : Result :=
  if wordAligned off = true then .next (hostWriteEffect off v (logEvent (.hostWrite off v) s))
  else .refused .notWordAccess

end Sys2Proof.Machine
end

