-- ==== Sys2Proof/Machine/Dispatch.lean ====
section
/-! DEFINITION. One arm per row of the opcode table. -/

namespace Sys2Proof.Machine

def exec (i : Instr) (s : State) : Host.Outcome State Fault Refusal :=
  match i with
  -- CTRL commands (40_commands.md)
  | .nop ign => Sys2Proof.Machine.execNop ign s
  | .init ign => Sys2Proof.Machine.execInit ign s
  | .readRaw ign => Sys2Proof.Machine.execReadRaw ign s
  | .decode ign => Sys2Proof.Machine.execDecode ign s
  | .derive ign => Sys2Proof.Machine.execDerive ign s
  | .classify ign => Sys2Proof.Machine.execClassify ign s
  | .measure ign => Sys2Proof.Machine.execMeasure ign s
  | .reserved ign => Sys2Proof.Machine.execReserved ign s
  -- provider operations (41_protocol_fsm.md)
  | .start => Sys2Proof.Machine.execStart s
  | .stop => Sys2Proof.Machine.execStop s
  | .addrW addr => Sys2Proof.Machine.execAddrW addr s
  | .addrR addr => Sys2Proof.Machine.execAddrR addr s
  | .write b => Sys2Proof.Machine.execWrite b s
  | .readAck => Sys2Proof.Machine.execReadAck s
  | .readNak => Sys2Proof.Machine.execReadNak s
  | .delay n => Sys2Proof.Machine.execDelay n s
  -- host accesses (20_memory.md)
  | .hostRead off lanes => Sys2Proof.Machine.execHostRead off lanes s
  | .hostWrite off v => Sys2Proof.Machine.execHostWrite off v s
  -- datapath steps (42_decoder.md, 43_comfort.md)
  | .dec => Sys2Proof.Machine.execDec s
  | .hic => Sys2Proof.Machine.execHic s
  | .cls => Sys2Proof.Machine.execCls s

end Sys2Proof.Machine
end

