-- ==== Sys2Proof/Machine/HostProgram.lean ====
section
/-! DEFINITION. Host-program notation (R65): the access forms as port data, and the pseudo-instructions' expansions. -/

namespace Sys2Proof.Machine

/-- `W off, imm32` (R65). -/
def progW (off : BitVec 8) (v : Word) : HostOp := .access (hostaccWord true off v)

/-- `R off -> name` (R65). -/
def progR (off : BitVec 8) : HostOp := .access (hostaccWord false off 0#32)

/-- `CMD NAME` (R65): `W 0x00, code(NAME)`. -/
def progCmd (code : BitVec 3) : HostOp := progW 0x00#8 (ctrlWord 0#29 code)

/-- `WAITIDLE` (R65). -/
def progWaitIdle : HostOp := .poll 0x04#8 0x00000001#32 0x00000000#32

/-- `LDFRAME b0,b1,b2,b3,b4,b5` (R65). -/
def progLdFrame (f : Frame) : List HostOp := [progW 0x0C#8 f.word0, progW 0x10#8 f.word1]

/-- `LDHI h` (R65). -/
def progLdHi (h : Int) : HostOp := progW 0x24#8 (wrap32 h)

/-- What an access of the host program puts on the port: the packed datum, or why it does not reach it (R38, R39). A POLL
is a loop of reads (R65). -/
def HostOp.datum : HostOp → Except Refusal Datum
  | .command w => .ok (.ctrl w)
  | .access w => .ok (.hostacc w)
  | .memRead addr n =>
    match platformOffset addr n with
    | .ok off => .ok (.hostacc (hostaccWord false off 0#32))
    | .error e => .error e
  | .memWrite addr n v =>
    match platformOffset addr n with
    | .ok off => .ok (.hostacc (hostaccWord true off v))
    | .error e => .error e
  | .poll off _ _ =>
    if wordAligned off = true then .ok (.hostacc (hostaccWord false off 0#32)) else .error .notWordAccess

/-- Whether the host program goes on to its next access after this one: a POLL does only when `(v & mask) = val` (R65). -/
def HostOp.finished (op : HostOp) (s : State) : Bool :=
  match op with
  | .poll off mask val => regView s off &&& mask == val
  | .command _ => true
  | .access _ => true
  | .memRead _ _ => true
  | .memWrite _ _ _ => true

end Sys2Proof.Machine
end

