-- ==== Sys2Proof/Machine/Agents.lean ====
section
/-! DEFINITION. One step of each agent (R49): what it fetches, and where. The HOST's instruction is the next access of its
program; the BUS and TMR agents' is the outstanding request (R84, R85); the FSM's is `state` (R29, R82). An agent that is
not enabled has no step: the block holds (R80; log entry 1). -/

namespace Sys2Proof.Machine

/-- Decode a fetched datum and run it. -/
def runFetched (d : Datum) (s : State) : Result :=
  match decode d with
  | .ok i => exec i s
  | .error why => .refused (.undecodable why)

/-- The HOST's step: the next access of the host program, in program order (R49). -/
def hostTurn (s : State) : Result :=
  match s.host with
  | [] => .next s
  | op :: rest =>
    match op.datum with
    | .error e => .refused e
    | .ok d => runFetched d (if op.finished s = true then { s with host := rest } else s)

/-- The FSM's step in the states it has: consuming a completion (R80), or a datapath operation (R82). In IDLE it has none
(R79). -/
def fsmTurn (s : State) : Result :=
  match s.state with
  | .idle => .next s
  | .unused _ => .refused .unusedState
  | .dec => runFetched (.fsmstate s.state.code) s
  | .hic => runFetched (.fsmstate s.state.code) s
  | .cls => runFetched (.fsmstate s.state.code) s
  | _ =>
    match s.cpl with
    | some d => .next (fsmReqStep d s)
    | none => .next s

/-- The BUS agent's step, enabled when `req = Bus(op, arg, ack)` and `cpl = none` (R84). A hung provider never takes it
(R86). -/
def busTurn (s : State) : Result :=
  if s.busHung = true then .next s
  else
    match s.req, s.cpl with
    | some (.bus op arg ack), none => runFetched (Request.datum (.bus op arg ack)) s
    | _, _ => .next s

/-- The TMR agent's step, enabled when `req = Delay(n)` and `cpl = none` (R85). A hung provider never takes it (R86). -/
def tmrTurn (s : State) : Result :=
  if s.tmrHung = true then .next s
  else
    match s.req, s.cpl with
    | some (.delay n), none => runFetched (Request.datum (.delay n)) s
    | _, _ => .next s

/-- One atomic step of the agent whose turn it is, the reset input, or a provider that hangs (R86; log entry 16). -/
def takeTurn (t : Turn) (s : State) : Result :=
  match t with
  | .host => hostTurn s
  | .fsm => fsmTurn s
  | .bus => busTurn s
  | .tmr => tmrTurn s
  | .reset => .next (resetBlock s)
  | .busHang => .next { s with busHung := true }
  | .tmrHang => .next { s with tmrHung := true }

/-- Whose turn it is, and the state with that turn taken off the schedule: the next one laid down, then a free one
(R49: "The interleaving is free"; log entry 1). -/
def popTurn (s : State) : Turn × State :=
  match s.turns with
  | t :: rest => (t, { s with turns := rest })
  | [] => (Config.freeTurn s.drawn, { s with drawn := s.drawn + 1 })

/-- Put a datum where the agent that runs its format fetches its next instruction, and make it that agent's turn. -/
def placeDatum (d : Datum) (s : State) : State :=
  match d with
  | .ctrl w => { s with turns := .host :: s.turns, host := .command w :: s.host }
  | .hostacc w => { s with turns := .host :: s.turns, host := .access w :: s.host }
  | .busop w => { s with turns := .bus :: s.turns, req := some (busopRequest w), cpl := none, busHung := false }
  | .dlyop w => { s with turns := .tmr :: s.turns, req := some (.delay w), cpl := none, tmrHung := false }
  | .fsmstate w => { s with turns := .fsm :: s.turns, state := FsmState.ofCode w }

end Sys2Proof.Machine
end

