-- ==== Sys2Proof/Machine/Step.lean ====
section
/-! DEFINITION. One step of the machine, and the placing of a table row's word where that step fetches it. -/

namespace Sys2Proof.Machine

/-- One step: the agent whose turn it is moves (R49). -/
def step (s : State) : Host.Outcome State Fault Refusal :=
  takeTurn (popTurn s).1 (popTurn s).2

/-- `s` with a table row's word as the next instruction to run. A number that is no datum of the row's format changes
nothing. Log entry 2. -/
def State.withFetchWord (s : State) (nbits w : Nat) : State :=
  match tableDatum nbits w with
  | some d => placeDatum d s
  | none => s

end Sys2Proof.Machine
end

