-- ==== Sys2Proof/Safety.lean ====
section
/-! DEFINITION. The terms claims use: quiescence, the end of a run and stuck states (R55), the recorded fault (R127), the
port transcript (R95, R96, R50), the invariants of the block, and the measure of a command's remaining work (R79). -/

namespace Sys2Proof.Machine

/-- R55: `state` = IDLE, `req` = none and `cpl` = none. -/
def Quiescent (s : State) : Prop := s.state = .idle ∧ s.req = none ∧ s.cpl = none

/-- R55: the host program has executed its last access and the block is quiescent. -/
def RunEnded (s : State) : Prop := s.host = [] ∧ Quiescent s

/-- R127: a recorded fault is `ERR` ≠ 0. A safe run ends without one. -/
def NoError (s : State) : Prop := s.err = State.reset.err

/-- R79, R80, R82: the FSM has a step. -/
def FsmEnabled (s : State) : Prop :=
  s.state = .dec ∨ s.state = .hic ∨ s.state = .cls ∨ ((reqOf s.state).isSome ∧ s.cpl.isSome)

/-- R84. -/
def BusEnabled (s : State) : Prop := (∃ op arg ack, s.req = some (.bus op arg ack)) ∧ s.cpl = none

/-- R85. -/
def TmrEnabled (s : State) : Prop := (∃ n, s.req = some (.delay n)) ∧ s.cpl = none

/-- R84, R86: the bus provider has a step: it is enabled, and it is not one that never completes. -/
def BusCanStep (s : State) : Prop := BusEnabled s ∧ s.busHung = false

/-- R85, R86: the timing provider has a step. -/
def TmrCanStep (s : State) : Prop := TmrEnabled s ∧ s.tmrHung = false

/-- R55: not quiescent, but neither FSM, BUS nor TMR can step. The rule's example is a block that waits for a provider that
never completes (R86, U6). A stuck state is no end of a run. -/
def Stuck (s : State) : Prop := ¬ Quiescent s ∧ ¬ FsmEnabled s ∧ ¬ BusCanStep s ∧ ¬ TmrCanStep s

/-- The requests of the `Issue` events of a history, in order (R34). -/
def issues : List Event → List Request
  | [] => []
  | .issue r :: es => r :: issues es
  | .complete _ _ :: es => issues es
  | .hostRead _ _ :: es => issues es
  | .hostWrite _ _ :: es => issues es

/-- R95: `S, AW(0x38), Wr(0xE1), Wr(0x08), Wr(0x00), P, D(T_INIT_US)`. -/
def initTranscript : List Request :=
  [reqStart, reqAddrW Config.devAddr] ++ Config.initSeq.map reqWrite ++ [reqStop, .delay Config.tInitUs]

/-- R96: the `Issue` events of READ_RAW and of MEASURE. -/
def readTranscript : List Request :=
  [reqStart, reqAddrW Config.devAddr] ++ Config.trigSeq.map reqWrite ++ [reqStop, .delay Config.tMeasUs]
    ++ [reqStart, reqAddrR Config.devAddr] ++ List.replicate (Config.frameLen - 1) (reqRead true)
    ++ [reqRead false, reqStop, .delay Config.tPostUs]

/-- What the command being run has issued when the FSM is in `st`: the transcript of R95 or R96 up to this state. -/
def issuedSoFar (cmd : BitVec 3) (st : FsmState) : List Request :=
  let k := st.code.toNat
  if k ≤ 7 then initTranscript.take k
  else if k ≤ 24 then readTranscript.take (k - 7)
  else if k ≤ 27 ∧ cmd = 6#3 then readTranscript
  else []

/-- The last requests of the history are exactly those of the running command up to its present state (R95, R96). -/
def TranscriptInv (s : State) : Prop := issuedSoFar s.cmd s.state <:+ issues s.trace

/-- One event read by the port discipline of R50: with nothing outstanding a request may be issued, and with one
outstanding only that one's completion may come. `none` is a broken discipline. -/
def portEvent (p : Option (Option Request)) (e : Event) : Option (Option Request) :=
  match p, e with
  | some none, .issue r => some (some r)
  | some (some r), .complete r' _ => if r = r' then some none else none
  | some q, .hostRead _ _ => some q
  | some q, .hostWrite _ _ => some q
  | _, _ => none

/-- The request that is outstanding and not completed (R33). -/
def outstanding (s : State) : Option Request := if s.cpl.isSome then none else s.req

/-- The history keeps the port discipline, and what it leaves outstanding is what the block has outstanding (R50). -/
def PortInv (s : State) : Prop := s.trace.foldl portEvent (some none) = some (outstanding s)

/-- R77: the init group. -/
def FsmState.inInit (st : FsmState) : Bool := 1 ≤ st.code.toNat && st.code.toNat ≤ 7

/-- R77: the trigger and read groups. -/
def FsmState.inRead (st : FsmState) : Bool := 8 ≤ st.code.toNat && st.code.toNat ≤ 24

/-- Which commands can be in `cmd` in a state (R67, R79). -/
def cmdRuns (cmd : BitVec 3) (st : FsmState) : Prop :=
  (st.inInit = true → cmd = 1#3) ∧ (st.inRead = true → cmd = 2#3 ∨ cmd = 6#3) ∧ (st = .dec → cmd = 3#3 ∨ cmd = 6#3)
    ∧ (st = .hic → cmd = 4#3 ∨ cmd = 6#3) ∧ (st = .cls → cmd = 4#3 ∨ cmd = 5#3 ∨ cmd = 6#3)

/-- The invariant of the protocol engine: no unused state code (R83), `req` is the one of the state and a completion
stands only beside a request (R33), `cmd` fits the state (R79), and a command that uses the bus runs only in a bound
session (R31, R66). -/
def ProtocolInv (s : State) : Prop :=
  (∀ k, s.state ≠ .unused k) ∧ s.req = reqOf s.state ∧ (s.req = none → s.cpl = none) ∧ cmdRuns s.cmd s.state
    ∧ (s.state.inInit = true ∨ s.state.inRead = true → s.initd = true)

/-- The invariant of `ERR` (R27, R119): a cause is recorded exactly when a bit is set, it is one of 1 to 3, and its bit is
set. -/
def ErrInv (e : Err) : Prop :=
  (e.cause = 0#4 ↔ (e.pre = false ∧ e.ovr = false ∧ e.rsv = false)) ∧ e.cause.toNat ≤ 3
    ∧ (e.cause = 1#4 → e.pre = true) ∧ (e.cause = 2#4 → e.ovr = true) ∧ (e.cause = 3#4 → e.rsv = true)

/-- The invariant of the result registers: the ranges of R21 and R22, and `BAND` code 6 is never produced (R24). -/
def ResultInv (s : State) : Prop :=
  -5000 ≤ s32 s.temp ∧ s32 s.temp ≤ 14999 ∧ s.hum.toNat ≤ 99 ∧ s.band ≠ 6#3

/-- FSM steps left until IDLE (R79). -/
def stepsLeft (cmd : BitVec 3) (st : FsmState) : Nat :=
  let tail := if cmd = 6#3 then 3 else 0
  match st with
  | .idle => 0
  | .dec => if cmd = 6#3 then 3 else 1
  | .hic => 2
  | .cls => 1
  | .unused _ => 0
  | _ => if st.inInit = true then 8 - st.code.toNat else 25 - st.code.toNat + tail

/-- The steps of FSM, BUS and TMR left until IDLE: one FSM step for each state, and one completion for each request. -/
def workLeft (s : State) : Nat :=
  2 * stepsLeft s.cmd s.state - (if s.cpl.isSome then 1 else 0)

/-- The agent that can move a busy block on: the FSM in a datapath state or with a completion, else the provider of the
outstanding request (R80, R82, R84, R85). -/
def mover (s : State) : Turn :=
  match s.req, s.cpl with
  | some (.bus _ _ _), none => .bus
  | some (.delay _), none => .tmr
  | _, _ => .fsm

/-- The agent that would move the block on is a provider that never completes (R86). -/
def WaitsOnHungProvider (s : State) : Prop :=
  (mover s = .bus ∧ s.busHung = true) ∨ (mover s = .tmr ∧ s.tmrHung = true)

/-- `n` bus operations, each completed and then consumed. -/
def busRounds : Nat → List Turn
  | 0 => []
  | n + 1 => .bus :: .fsm :: busRounds n

/-- The turns that carry INIT from acceptance to IDLE without delay: six bus operations and one delay (R95). -/
def initTurns : List Turn := busRounds 6 ++ [.tmr, .fsm]

/-- The turns that carry READ_RAW from acceptance to IDLE without delay (R96). -/
def readTurns : List Turn := busRounds 6 ++ [.tmr, .fsm] ++ busRounds 9 ++ [.tmr, .fsm]

/-- The turns that carry MEASURE from acceptance to IDLE without delay: those of READ_RAW, then DEC, HIC and CLS (R96). -/
def measureTurns : List Turn := readTurns ++ [.fsm, .fsm, .fsm]

/-- `n` steps, one after another, stopping at the first refusal. -/
def runSteps : Nat → State → Result
  | 0, s => .next s
  | n + 1, s =>
    match step s with
    | .next t => runSteps n t
    | .fault f => .fault f
    | .refused e => .refused e

end Sys2Proof.Machine
end

