-- ==== Sys2Proof/Certificates/Slice0/Obligations.lean ====
section
/-! DEFINITION. The statements for the provers. The block has no memory (R36), so a frame here speaks of the registers,
the hidden elements, the history and the environment. `turns`, `host`, `sensor`, `drawn`, `busHung` and `tmrHung`, wherever
a statement names them, are the model's own form of the spec's free interleaving, host program, sensor bytes and providers
that never complete (log entries 1, 2, 3 and 16, DESIGN CHOICE); no statement rests on their reset values. The agent that
moves in a step is `(popTurn s).1`, and `(popTurn s).2` is the state with that turn taken off the schedule. -/

open Sys2Proof Sys2Proof.Machine

/-! ## Encoding -/

/-- R56 to R60: decoding the word of a well-formed instruction gives it back, with every operand. That a command keeps the
ignored bits of its word, and a read its data lanes, as operands is the model's choice (log entry 11, DEDUCED). -/
def Obligations.EncodedInstructionDecodesBack : Prop :=
  ∀ i : Instr, i.wf = true → decode (encode i) = .ok i

/-- The converse of the first statement: a datum that decodes is the word of the instruction it decodes to, which is
well-formed. It rests on two choices of the model: the ignored bits of a `CTRL` word and the data lanes of a read are kept as
operands (log entry 11, DEDUCED; in the spec the words 0 and 0xFFFFFFF8 are both NOP), and a bus word that is no row of
R58's table is rejected (log entry 12, DEDUCED). -/
def Obligations.AcceptedDatumReencodes : Prop :=
  ∀ (d : Datum) (i : Instr), decode d = .ok i → i.wf = true ∧ encode i = d

/-- Words written out in the spec (R56, the transcripts of 95_test_vectors.md 2.2, its program encodings, and D-3). -/
def Obligations.SpecWordsDecode : Prop :=
  decode (.busop 0x470#12) = .ok (.addrW 0x38#7) ∧ decode (.busop 0x670#12) = .ok (.addrR 0x38#7)
    ∧ decode (.busop 0x9C2#12) = .ok (.write 0xE1#8) ∧ decode (.busop 0x958#12) = .ok (.write 0xAC#8)
    ∧ decode (.busop 0xA01#12) = .ok .readAck ∧ decode (.busop 0xA00#12) = .ok .readNak
    ∧ decode (.dlyop 0x13880#17) = .ok (.delay 80000#17)
    ∧ decode (.hostacc 0x4000000006#39) = .ok (.hostWrite 0x00#8 6#32)
    ∧ decode (.hostacc 0x4900000005#39) = .ok (.hostWrite 0x24#8 5#32)
    ∧ decode (.hostacc 0x0100000000#39) = .ok (.hostRead 0x04#8 0#32)
    ∧ decode (.ctrl 0xFFFFFFF8#32) = .ok (.nop 0x1FFFFFFF#29) ∧ decode (.fsmstate 26#5) = .ok .hic

/-- Bus words that are no row of R58's table are rejected by name: opcodes 6 and 7 (R58, R63), and an `arg` or `ack` the
table does not give an opcode. The rejection is the model's reading (log entry 12, DEDUCED; V6 says a model may refuse). A
word of the table with another address than `0x38`, or with a byte outside the two sequences, decodes, and is not issuable;
every request the FSM issues decodes to an issuable operation (R58, R59, R61). -/
def Obligations.NeverIssuedBusWordsRejected : Prop :=
  (∀ op arg ack, (op = 6#3 ∨ op = 7#3) → decode (.busop (busopWord op arg ack)) = .error .busOpcode)
    ∧ (∀ op arg ack, (op = 0#3 ∨ op = 1#3) → (arg ≠ 0#8 ∨ ack = true) →
        decode (.busop (busopWord op arg ack)) = .error .busOperand)
    ∧ (∀ op arg ack, (op = 2#3 ∨ op = 3#3) → (arg.getLsbD 7 = true ∨ ack = true) →
        decode (.busop (busopWord op arg ack)) = .error .busOperand)
    ∧ (∀ arg, decode (.busop (busopWord 4#3 arg true)) = .error .busOperand)
    ∧ (∀ arg ack, arg ≠ 0#8 → decode (.busop (busopWord 5#3 arg ack)) = .error .busOperand)
    ∧ (∀ a : BitVec 7, a ≠ 0x38#7 →
        decode (.busop (busopWord 2#3 (0#1 ++ a) false)) = .ok (.addrW a) ∧ (Instr.addrW a).issuable = false
          ∧ decode (.busop (busopWord 3#3 (0#1 ++ a) false)) = .ok (.addrR a) ∧ (Instr.addrR a).issuable = false)
    ∧ (∀ b : Byte, b ∉ [0xE1#8, 0x08#8, 0x00#8, 0xAC#8, 0x33#8] →
        decode (.busop (busopWord 4#3 b false)) = .ok (.write b) ∧ (Instr.write b).issuable = false)
    ∧ (∀ (st : FsmState) (r : Request), reqOf st = some r → ∃ i, decode r.datum = .ok i ∧ i.issuable = true)

/-- R57: bits [31:3] of a `CTRL` word select nothing and raise nothing: two words with one `CMD` leave the same block, and
the two histories differ only in the word recorded. -/
def Obligations.CommandIgnoresHighBits : Prop :=
  ∀ (s : State) (v w : Word), cmdField v = cmdField w →
    ∃ (t : State) (es : List Event),
      exec (decodeCtrl v) s = .next { t with trace := s.trace ++ .hostWrite 0x00#8 v :: es }
        ∧ exec (decodeCtrl w) s = .next { t with trace := s.trace ++ .hostWrite 0x00#8 w :: es }

/-! ## Steps of the agents -/

/-- R49, R82, R84, R85: a step runs the instruction its agent fetches. The agent is the next of the schedule, or past its
end any (log entry 1). HOST: what its program's next access decodes to, moving past the access (past a POLL only when its
condition holds, R65). BUS and TMR, unless hung (log entry 16): the outstanding, uncompleted request. FSM: the datapath
operation of its state code. -/
def Obligations.StepRunsDecodedInstruction : Prop :=
  (∀ (s : State) (a : Turn) (ts : List Turn), s.turns = a :: ts → popTurn s = (a, { s with turns := ts }))
    ∧ (∀ s : State, s.turns = [] → (popTurn s).2 = { s with drawn := s.drawn + 1 })
    ∧ (∀ (s : State) (op : HostOp) (rest : List HostOp) (d : Datum) (i : Instr),
      (popTurn s).1 = .host → s.host = op :: rest → op.datum = .ok d → decode d = .ok i →
      step s = exec i { (popTurn s).2 with host := if op.finished s = true then rest else op :: rest })
    ∧ (∀ (s : State) (op : BitVec 3) (arg : Byte) (ack : Bool) (i : Instr),
      (popTurn s).1 = .bus → s.req = some (.bus op arg ack) → s.cpl = none → s.busHung = false →
      decode (.busop (busopWord op arg ack)) = .ok i → step s = exec i (popTurn s).2)
    ∧ (∀ (s : State) (n : BitVec 17),
      (popTurn s).1 = .tmr → s.req = some (.delay n) → s.cpl = none → s.tmrHung = false →
      step s = exec (.delay n) (popTurn s).2)
    ∧ (∀ (s : State) (i : Instr),
      (popTurn s).1 = .fsm → decode (.fsmstate s.state.code) = .ok i → step s = exec i (popTurn s).2)

/-- R78, R79, R80, R81: a step of the FSM in a request state with `cpl = done(d)` writes `frame[i] <- d` in `R_Bi` and no
other register, and enters `next(s)`, whose request is issued. -/
def Obligations.FsmConsumesCompletion : Prop :=
  ∀ (s : State) (r : Request) (d : Byte),
    (popTurn s).1 = .fsm → reqOf s.state = some r → s.cpl = some d →
    ∃ t, step s = .next t
      ∧ t.state = nextState s.state s.cmd ∧ t.req = reqOf t.state ∧ t.cpl = none
      ∧ t.frame.b0 = (if s.state = .rB0 then d else s.frame.b0) ∧ t.frame.b1 = (if s.state = .rB1 then d else s.frame.b1)
      ∧ t.frame.b2 = (if s.state = .rB2 then d else s.frame.b2) ∧ t.frame.b3 = (if s.state = .rB3 then d else s.frame.b3)
      ∧ t.frame.b4 = (if s.state = .rB4 then d else s.frame.b4) ∧ t.frame.b5 = (if s.state = .rB5 then d else s.frame.b5)
      ∧ t.done = (if t.state = .idle then true else s.done)
      ∧ t.trace = s.trace ++ (match reqOf t.state with | some r' => [.issue r'] | none => [])
      ∧ t.cmd = s.cmd ∧ t.initd = s.initd ∧ t.err = s.err ∧ t.rawh = s.rawh ∧ t.rawt = s.rawt ∧ t.temp = s.temp
      ∧ t.hum = s.hum ∧ t.hi = s.hi ∧ t.band = s.band ∧ t.turns = (popTurn s).2.turns ∧ t.host = s.host
      ∧ t.sensor = s.sensor ∧ t.drawn = (popTurn s).2.drawn ∧ t.busHung = s.busHung ∧ t.tmrHung = s.tmrHung

/-- R79, R80, R84, R85, R86: an agent that is not enabled, or a hung provider, has no step: the block holds and only its
turn passes (that the model lets the turn pass is log entry 1, that a provider hangs log entry 16). -/
def Obligations.DisabledAgentHolds : Prop :=
  ∀ s : State,
    (((popTurn s).1 = .fsm ∧ (s.state = .idle ∨ ((reqOf s.state).isSome = true ∧ s.cpl = none)))
      ∨ ((popTurn s).1 = .bus ∧ ¬ BusCanStep s) ∨ ((popTurn s).1 = .tmr ∧ ¬ TmrCanStep s)
      ∨ ((popTurn s).1 = .host ∧ s.host = [])) →
    step s = .next (popTurn s).2

/-- R83: a model gives the unused state codes no step (log entry 6). -/
def Obligations.UnusedStateRefused : Prop :=
  ∀ (s : State) (k : Fin 4), (popTurn s).1 = .fsm → s.state = .unused k → step s = .refused .unusedState

/-- In every state that meets the protocol invariant, with a host program whose accesses reach the port, every step
completes: nothing is refused. -/
def Obligations.StepsCompleteUnderProtocolInv : Prop :=
  ∀ s : State, ProtocolInv s → (∀ op ∈ s.host, ∃ d, op.datum = .ok d) → ∃ t, step s = .next t

/-! ## Reset -/

/-- R37: on reset every element takes the table's value, whatever it was; and the machine starts so. -/
def Obligations.ResetGivesTableValues : Prop :=
  (∀ s : State, (popTurn s).1 = .reset → ∃ t, step s = .next t
      ∧ t.state = .idle ∧ t.cmd = 0#3 ∧ t.initd = false ∧ t.done = false ∧ t.req = none ∧ t.cpl = none
      ∧ t.err.pre = false ∧ t.err.ovr = false ∧ t.err.rsv = false ∧ t.err.cause = 0#4
      ∧ t.frame = ⟨0#8, 0#8, 0#8, 0#8, 0#8, 0#8⟩ ∧ t.rawh = 0#20 ∧ t.rawt = 0#20 ∧ t.temp = 0#32 ∧ t.hum = 0#32
      ∧ t.hi = 0#32 ∧ t.band = 7#3 ∧ t.trace = [])
    ∧ State.reset.state = .idle ∧ State.reset.cmd = 0#3 ∧ State.reset.initd = false ∧ State.reset.done = false
    ∧ State.reset.req = none ∧ State.reset.cpl = none ∧ State.reset.err.word = 0#32
    ∧ State.reset.frame.word0 = 0#32 ∧ State.reset.frame.word1 = 0#32 ∧ State.reset.valid = false
    ∧ State.reset.busy = false ∧ State.reset.rawh = 0#20 ∧ State.reset.rawt = 0#20 ∧ State.reset.temp = 0#32
    ∧ State.reset.hum = 0#32 ∧ State.reset.hi = 0#32 ∧ State.reset.band = 7#3 ∧ State.reset.trace = []

/-- R136: reset abandons the outstanding request, issues no clean-up request, and a completion delivered afterwards is
ignored, whichever operation the provider completes. -/
def Obligations.LateCompletionIgnored : Prop :=
  (∀ s : State, takeTurn .reset s = .next (resetBlock s) ∧ (resetBlock s).req = none
      ∧ issues (resetBlock s).trace = [])
    ∧ (∀ s : State, s.req = none → exec .start s = .next s ∧ exec .stop s = .next s
      ∧ (∀ a, exec (.addrW a) s = .next s) ∧ (∀ a, exec (.addrR a) s = .next s) ∧ (∀ b, exec (.write b) s = .next s)
      ∧ exec .readAck s = .next s ∧ exec .readNak s = .next s ∧ (∀ n, exec (.delay n) s = .next s))

/-! ## Commands -/

/-- R68: `CMD` = 0 is NOP, which has no effect, in any state; only the history records the write. -/
def Obligations.NopHasNoEffect : Prop :=
  ∀ (s : State) (ign : BitVec 29), decodeCtrl (ctrlWord ign 0#3) = .nop ign
    ∧ exec (.nop ign) s = .next { s with trace := s.trace ++ [.hostWrite 0x00#8 (ctrlWord ign 0#3)] }

/-- R67, R69: an accepted INIT binds the session, clears `DONE` and issues `START` from I_START. -/
def Obligations.InitBindsSessionAndStarts : Prop :=
  ∀ (s : State) (ign : BitVec 29), s.state = .idle → s.initd = false →
    exec (.init ign) s = .next { s with
      cmd := 1#3, done := false, initd := true, state := .iStart, req := some (.bus 0#3 0#8 false), cpl := none
      trace := s.trace ++ [.hostWrite 0x00#8 (ctrlWord ign 1#3), .issue (.bus 0#3 0#8 false)] }

/-- R67, R70, R74: an accepted READ_RAW or MEASURE clears `DONE` and issues `START` from T_START. -/
def Obligations.ReadCommandsStartTrigger : Prop :=
  ∀ (s : State) (ign : BitVec 29), s.state = .idle → s.initd = true →
    exec (.readRaw ign) s = .next { s with
        cmd := 2#3, done := false, state := .tStart, req := some (.bus 0#3 0#8 false), cpl := none
        trace := s.trace ++ [.hostWrite 0x00#8 (ctrlWord ign 2#3), .issue (.bus 0#3 0#8 false)] }
      ∧ exec (.measure ign) s = .next { s with
        cmd := 6#3, done := false, state := .tStart, req := some (.bus 0#3 0#8 false), cpl := none
        trace := s.trace ++ [.hostWrite 0x00#8 (ctrlWord ign 6#3), .issue (.bus 0#3 0#8 false)] }

/-- R67, R71, R72, R73: an accepted DECODE, DERIVE or CLASSIFY needs no session, clears `DONE` and enters DEC, HIC or
CLS, issuing nothing. -/
def Obligations.PureCommandsEnterDatapath : Prop :=
  ∀ (s : State) (ign : BitVec 29), s.state = .idle →
    exec (.decode ign) s = .next { s with
        cmd := 3#3, done := false, state := .dec, req := none, cpl := none
        trace := s.trace ++ [.hostWrite 0x00#8 (ctrlWord ign 3#3)] }
      ∧ exec (.derive ign) s = .next { s with
        cmd := 4#3, done := false, state := .hic, req := none, cpl := none
        trace := s.trace ++ [.hostWrite 0x00#8 (ctrlWord ign 4#3)] }
      ∧ exec (.classify ign) s = .next { s with
        cmd := 5#3, done := false, state := .cls, req := none, cpl := none
        trace := s.trace ++ [.hostWrite 0x00#8 (ctrlWord ign 5#3)] }

/-- R75, R122: `CMD` = 7, the reserved command, raises RSV while idle and OVR while busy, writes `ERR` only, and the FSM does not move. -/
def Obligations.ReservedCommandRecordsError : Prop :=
  ∀ (s : State) (ign : BitVec 29), decodeCtrl (ctrlWord ign 7#3) = .reserved ign
      ∧ (s.state = .idle → exec (.reserved ign) s = .next { s with
        err := { s.err with rsv := true, cause := if s.err.cause = 0#4 then 3#4 else s.err.cause }
        trace := s.trace ++ [.hostWrite 0x00#8 (ctrlWord ign 7#3)] })
      ∧ (s.state ≠ .idle → exec (.reserved ign) s = .next { s with
        err := { s.err with ovr := true, cause := if s.err.cause = 0#4 then 2#4 else s.err.cause }
        trace := s.trace ++ [.hostWrite 0x00#8 (ctrlWord ign 7#3)] })

/-- R66, R121, R125: every command but NOP that arrives while busy is dropped with OVR, before RSV and PRE are looked at,
and the running command continues unaffected. -/
def Obligations.BusyCommandRecordsOverrun : Prop :=
  ∀ (s : State) (v : Word), s.state ≠ .idle → cmdField v ≠ 0#3 →
    exec (decodeCtrl v) s = .next { s with
      err := { s.err with ovr := true, cause := if s.err.cause = 0#4 then 2#4 else s.err.cause }
      trace := s.trace ++ [.hostWrite 0x00#8 v] }

/-- R120: READ_RAW and MEASURE before INIT, and a second INIT, are dropped with PRE and start nothing. -/
def Obligations.SessionViolationRecordsPre : Prop :=
  ∀ (s : State) (v : Word), s.state = .idle →
    ((cmdField v = 2#3 ∨ cmdField v = 6#3) ∧ s.initd = false ∨ cmdField v = 1#3 ∧ s.initd = true) →
    exec (decodeCtrl v) s = .next { s with
      err := { s.err with pre := true, cause := if s.err.cause = 0#4 then 1#4 else s.err.cause }
      trace := s.trace ++ [.hostWrite 0x00#8 v] }

/-- R119: raising an error sets its bit, records its code as the cause only when none was recorded, and changes nothing
else; and each host write that raises one (R41, R66), recorded before or not, has no other effect than its event. -/
def Obligations.RaisedErrorChangesOnlyErr : Prop :=
  ∀ s : State,
    raiseError .pre s = { s with
        err := ⟨true, s.err.ovr, s.err.rsv, if s.err.cause = 0#4 then 1#4 else s.err.cause⟩ }
      ∧ raiseError .ovr s = { s with
        err := ⟨s.err.pre, true, s.err.rsv, if s.err.cause = 0#4 then 2#4 else s.err.cause⟩ }
      ∧ raiseError .rsv s = { s with
        err := ⟨s.err.pre, s.err.ovr, true, if s.err.cause = 0#4 then 3#4 else s.err.cause⟩ }
      ∧ (∀ (off : BitVec 8) (v : Word), s.state ≠ .idle →
        ((off = 0x00#8 ∧ cmdField v ≠ 0#3) ∨ off = 0x0C#8 ∨ off = 0x10#8 ∨ off = 0x24#8) →
        exec (.hostWrite off v) s = .next { raiseError .ovr s with trace := s.trace ++ [.hostWrite off v] })
      ∧ (∀ v : Word, s.state = .idle → cmdField v = 7#3 →
        exec (.hostWrite 0x00#8 v) s = .next { raiseError .rsv s with trace := s.trace ++ [.hostWrite 0x00#8 v] })
      ∧ (∀ v : Word, s.state = .idle →
        ((cmdField v = 2#3 ∨ cmdField v = 6#3) ∧ s.initd = false ∨ cmdField v = 1#3 ∧ s.initd = true) →
        exec (.hostWrite 0x00#8 v) s = .next { raiseError .pre s with trace := s.trace ++ [.hostWrite 0x00#8 v] })
      ∧ (∀ (off : BitVec 8) (v : Word) (t : State), exec (.hostWrite off v) s = .next t → t.err ≠ s.err →
        t = { s with err := t.err, trace := s.trace ++ [.hostWrite off v] })

/-- The frame of the eight commands, accepted or not: no data register, no environment; `INITD` is written only by INIT,
`ERR` only by a command that is not accepted, and a command that is not accepted moves nothing (R28, R66, R67). -/
def Obligations.CommandFrame : Prop :=
  ∀ (s t : State) (v : Word), exec (decodeCtrl v) s = .next t →
    t.frame = s.frame ∧ t.rawh = s.rawh ∧ t.rawt = s.rawt ∧ t.temp = s.temp ∧ t.hum = s.hum ∧ t.hi = s.hi
      ∧ t.band = s.band ∧ t.turns = s.turns ∧ t.host = s.host ∧ t.sensor = s.sensor ∧ t.drawn = s.drawn
      ∧ t.busHung = s.busHung ∧ t.tmrHung = s.tmrHung
      ∧ (cmdField v ≠ 1#3 → t.initd = s.initd)
      ∧ ((t.err = s.err ∧ s.state = .idle ∧ t.cmd = cmdField v ∧ t.done = false ∧ t.state ≠ .idle)
        ∨ (t.state = s.state ∧ t.cmd = s.cmd ∧ t.done = s.done ∧ t.initd = s.initd ∧ t.req = s.req ∧ t.cpl = s.cpl
          ∧ issues t.trace = issues s.trace))

/-! ## Host accesses -/

/-- R40: a host read returns the register's view in its event and changes nothing but the history; `CTRL` and the reserved
offsets return 0; and a second read returns the same word. -/
def Obligations.HostReadHasNoSideEffect : Prop :=
  ∀ (s : State) (off : BitVec 8) (lanes : Word), wordAligned off = true →
    exec (.hostRead off lanes) s = .next { s with trace := s.trace ++ [.hostRead off (regView s off)] }
      ∧ (off = 0x00#8 ∨ 0x2C ≤ off.toNat → regView s off = 0#32)
      ∧ ∀ t, exec (.hostRead off lanes) s = .next t → regView t off = regView s off

/-- R17 to R25, R38: what each data register's offset shows, bit field by bit field; `CTRL` and reserved offsets read 0.
`STATUS` and `ERR` are the next statement's. -/
def Obligations.RegisterMapViews : Prop :=
  ∀ s : State,
    (regView s 0x0C#8).extractLsb' 0 8 = s.frame.b0 ∧ (regView s 0x0C#8).extractLsb' 8 8 = s.frame.b1
      ∧ (regView s 0x0C#8).extractLsb' 16 8 = s.frame.b2 ∧ (regView s 0x0C#8).extractLsb' 24 8 = s.frame.b3
      ∧ (regView s 0x10#8).extractLsb' 0 8 = s.frame.b4 ∧ (regView s 0x10#8).extractLsb' 8 8 = s.frame.b5
      ∧ (regView s 0x10#8).extractLsb' 16 16 = 0#16
      ∧ (regView s 0x14#8).toNat = s.rawh.toNat ∧ (regView s 0x18#8).toNat = s.rawt.toNat
      ∧ regView s 0x1C#8 = s.temp ∧ regView s 0x20#8 = s.hum ∧ regView s 0x24#8 = s.hi
      ∧ (regView s 0x28#8).toNat = s.band.toNat ∧ regView s 0x00#8 = 0#32
      ∧ ∀ off : BitVec 8, 0x2C ≤ off.toNat → regView s off = 0#32

/-- R26, R27: the fields of `STATUS` and of `ERR`. -/
def Obligations.StatusAndErrFields : Prop :=
  ∀ s : State,
    ((regView s 0x04#8).getLsbD 0 = true ↔ s.state ≠ .idle) ∧ (regView s 0x04#8).getLsbD 1 = s.done
      ∧ (regView s 0x04#8).getLsbD 2 = s.initd ∧ ((regView s 0x04#8).getLsbD 3 = true ↔ s.frame.b0 = 0x19#8)
      ∧ ((regView s 0x04#8).getLsbD 4 = true ↔ (regView s 0x08#8).extractLsb' 0 3 ≠ 0#3)
      ∧ (regView s 0x04#8).extractLsb' 5 3 = 0#3 ∧ (regView s 0x04#8).extractLsb' 8 5 = s.state.code
      ∧ (regView s 0x04#8).extractLsb' 13 19 = 0#19
      ∧ (regView s 0x08#8).getLsbD 0 = s.err.pre ∧ (regView s 0x08#8).getLsbD 1 = s.err.ovr
      ∧ (regView s 0x08#8).getLsbD 2 = s.err.rsv ∧ (regView s 0x08#8).getLsbD 3 = false
      ∧ (regView s 0x08#8).extractLsb' 4 4 = s.err.cause ∧ (regView s 0x08#8).extractLsb' 8 24 = 0#24

/-- R17, R18, R23, R41: a host write of `FRAME0`, `FRAME1` or `HI` while idle loads the register and nothing else. -/
def Obligations.IdleDataWriteLoadsRegister : Prop :=
  ∀ (s : State) (v : Word), s.state = .idle →
    exec (.hostWrite 0x0C#8 v) s = .next { s with
        frame := { s.frame with b0 := v.extractLsb' 0 8, b1 := v.extractLsb' 8 8, b2 := v.extractLsb' 16 8, b3 := v.extractLsb' 24 8 }
        trace := s.trace ++ [.hostWrite 0x0C#8 v] }
      ∧ exec (.hostWrite 0x10#8 v) s = .next { s with
        frame := { s.frame with b4 := v.extractLsb' 0 8, b5 := v.extractLsb' 8 8 }
        trace := s.trace ++ [.hostWrite 0x10#8 v] }
      ∧ exec (.hostWrite 0x24#8 v) s = .next { s with hi := v, trace := s.trace ++ [.hostWrite 0x24#8 v] }

/-- R41, R121: a host write of `FRAME0`, `FRAME1` or `HI` while busy is dropped with OVR. -/
def Obligations.BusyDataWriteRecordsOverrun : Prop :=
  ∀ (s : State) (off : BitVec 8) (v : Word), (off = 0x0C#8 ∨ off = 0x10#8 ∨ off = 0x24#8) → s.state ≠ .idle →
    exec (.hostWrite off v) s = .next { s with
      err := { s.err with ovr := true, cause := if s.err.cause = 0#4 then 2#4 else s.err.cause }
      trace := s.trace ++ [.hostWrite off v] }

/-- R41: a host write to a read-only or reserved offset is ignored, in any state, and raises no error. -/
def Obligations.ReadOnlyWriteIgnored : Prop :=
  ∀ (s : State) (off : BitVec 8) (v : Word), wordAligned off = true →
    off ≠ 0x00#8 → off ≠ 0x0C#8 → off ≠ 0x10#8 → off ≠ 0x24#8 →
    exec (.hostWrite off v) s = .next { s with trace := s.trace ++ [.hostWrite off v] }

/-- R25, R41: a host write to `CTRL` is the issue of the command its word decodes to. -/
def Obligations.CtrlWriteIssuesCommand : Prop :=
  ∀ (s : State) (v : Word), exec (.hostWrite 0x00#8 v) s = exec (decodeCtrl v) s

/-- R38, R39: an access of other than one aligned word has no step, at the port and at the platform in front of it; an
aligned word access inside the window reaches its register's offset; an access outside the window does not reach the block.
R39 says that a model refuses the first; where the refusals stand and the second one are the model's (log entry 7, DEDUCED;
a platform may also split the access). -/
def Obligations.OnlyAlignedWordsReachThePort : Prop :=
  (∀ (s : State) (off : BitVec 8) (v : Word), wordAligned off = false →
      exec (.hostRead off v) s = .refused .notWordAccess ∧ exec (.hostWrite off v) s = .refused .notWordAccess)
    ∧ (∀ k n : Nat, k < 256 → (n ≠ 4 ∨ k % 4 ≠ 0) →
      (HostOp.memRead (Config.base + k) n).datum = .error .notWordAccess
        ∧ ∀ v, (HostOp.memWrite (Config.base + k) n v).datum = .error .notWordAccess)
    ∧ (∀ k : Nat, k < 256 → k % 4 = 0 →
      (HostOp.memRead (Config.base + k) 4).datum = .ok (encode (.hostRead (BitVec.ofNat 8 k) 0#32))
        ∧ ∀ v, (HostOp.memWrite (Config.base + k) 4 v).datum = .ok (encode (.hostWrite (BitVec.ofNat 8 k) v)))
    ∧ (∀ addr n : Nat, (addr < Config.base ∨ Config.base + 256 ≤ addr) →
      (HostOp.memRead addr n).datum = .error .outsideWindow
        ∧ ∀ v, (HostOp.memWrite addr n v).datum = .error .outsideWindow)

/-- R17, R18, R23: what the host writes while idle it reads back: all of `FRAME0` and `HI`, and bits [15:0] of `FRAME1`. -/
def Obligations.DataWriteReadsBack : Prop :=
  ∀ (s : State) (v : Word), s.state = .idle →
    (∃ t, exec (.hostWrite 0x0C#8 v) s = .next t ∧ regView t 0x0C#8 = v ∧ regView t 0x10#8 = regView s 0x10#8)
      ∧ (∃ t, exec (.hostWrite 0x10#8 v) s = .next t ∧ regView t 0x10#8 = (v &&& 0x0000FFFF#32)
        ∧ regView t 0x0C#8 = regView s 0x0C#8)
      ∧ (∃ t, exec (.hostWrite 0x24#8 v) s = .next t ∧ regView t 0x24#8 = v)

/-- The frame of a host write to any offset (R41): the decoder's and the classifier's registers are never written, a
register only through its own offset and only while idle, the FSM's elements only through `CTRL`. -/
def Obligations.HostWriteFrame : Prop :=
  ∀ (s t : State) (off : BitVec 8) (v : Word), exec (.hostWrite off v) s = .next t →
    t.rawh = s.rawh ∧ t.rawt = s.rawt ∧ t.temp = s.temp ∧ t.hum = s.hum ∧ t.band = s.band
      ∧ t.turns = s.turns ∧ t.host = s.host ∧ t.sensor = s.sensor ∧ t.drawn = s.drawn
      ∧ t.busHung = s.busHung ∧ t.tmrHung = s.tmrHung
      ∧ (t.frame ≠ s.frame → (off = 0x0C#8 ∨ off = 0x10#8) ∧ s.state = .idle)
      ∧ (off ≠ 0x0C#8 → t.frame.word0 = s.frame.word0) ∧ (off ≠ 0x10#8 → t.frame.word1 = s.frame.word1)
      ∧ (t.hi ≠ s.hi → off = 0x24#8 ∧ s.state = .idle)
      ∧ (off ≠ 0x00#8 → t.state = s.state ∧ t.cmd = s.cmd ∧ t.initd = s.initd ∧ t.done = s.done ∧ t.req = s.req
        ∧ t.cpl = s.cpl ∧ issues t.trace = issues s.trace)
      ∧ (t.err ≠ s.err → off = 0x00#8 ∨ off = 0x0C#8 ∨ off = 0x10#8 ∨ off = 0x24#8)

/-! ## Provider operations -/

/-- R84: completing an outstanding `START`, `STOP`, `ADDR_W`, `ADDR_R` or `WRITE` carries 0 and changes nothing but `cpl`
and the history. -/
def Obligations.BusOperationsComplete : Prop :=
  (∀ s : State, s.req = some (.bus 0#3 0#8 false) → s.cpl = none →
      exec .start s = .next { s with cpl := some 0#8, trace := s.trace ++ [.complete (.bus 0#3 0#8 false) 0#8] })
    ∧ (∀ s : State, s.req = some (.bus 1#3 0#8 false) → s.cpl = none →
      exec .stop s = .next { s with cpl := some 0#8, trace := s.trace ++ [.complete (.bus 1#3 0#8 false) 0#8] })
    ∧ (∀ (s : State) (a : BitVec 7), s.req = some (.bus 2#3 (0#1 ++ a) false) → s.cpl = none →
      exec (.addrW a) s = .next { s with cpl := some 0#8, trace := s.trace ++ [.complete (.bus 2#3 (0#1 ++ a) false) 0#8] })
    ∧ (∀ (s : State) (a : BitVec 7), s.req = some (.bus 3#3 (0#1 ++ a) false) → s.cpl = none →
      exec (.addrR a) s = .next { s with cpl := some 0#8, trace := s.trace ++ [.complete (.bus 3#3 (0#1 ++ a) false) 0#8] })
    ∧ (∀ (s : State) (b : Byte), s.req = some (.bus 4#3 b false) → s.cpl = none →
      exec (.write b) s = .next { s with cpl := some 0#8, trace := s.trace ++ [.complete (.bus 4#3 b false) 0#8] })

/-- R84, R92, R93: completing an outstanding `READ` carries the byte the sensor drives: the next one laid down, or, past
those, some byte. -/
def Obligations.ReadsCompleteWithSensorByte : Prop :=
  ∀ (s : State) (ack : Bool), s.req = some (.bus 5#3 0#8 ack) → s.cpl = none →
    (∀ d rest, s.sensor = d :: rest →
      exec (if ack = true then .readAck else .readNak) s = .next { s with
        cpl := some d, sensor := rest, trace := s.trace ++ [.complete (.bus 5#3 0#8 ack) d] })
      ∧ (s.sensor = [] → ∃ d, exec (if ack = true then .readAck else .readNak) s = .next { s with
        cpl := some d, drawn := s.drawn + 1, trace := s.trace ++ [.complete (.bus 5#3 0#8 ack) d] })

/-- R85: completing an outstanding delay carries 0 and changes nothing but `cpl` and the history. -/
def Obligations.DelayCompletes : Prop :=
  ∀ (s : State) (n : BitVec 17), s.req = some (.delay n) → s.cpl = none →
    exec (.delay n) s = .next { s with cpl := some 0#8, trace := s.trace ++ [.complete (.delay n) 0#8] }

/-- The frame of the eight provider operations, enabled or not (R84, R85): only `cpl`, the history, and for a READ the
sensor's bytes, can change. -/
def Obligations.ProviderFrame : Prop :=
  ∀ (s t : State) (i : Instr),
    (i = .start ∨ i = .stop ∨ (∃ a, i = .addrW a) ∨ (∃ a, i = .addrR a) ∨ (∃ b, i = .write b) ∨ i = .readAck
      ∨ i = .readNak ∨ (∃ n, i = .delay n)) → exec i s = .next t →
    t = { s with cpl := t.cpl, trace := t.trace, sensor := t.sensor, drawn := t.drawn }
      ∧ issues t.trace = issues s.trace ∧ (i ≠ .readAck → i ≠ .readNak → t.sensor = s.sensor ∧ t.drawn = s.drawn)

/-! ## Datapath -/

/-- R99, R103, R104: DEC writes the two raw fields and their scaled values from the frame, whatever the status byte is,
and goes on to HIC in MEASURE and to IDLE with `DONE` otherwise. -/
def Obligations.DecWritesScaledFields : Prop :=
  ∀ s : State,
    let hr := (s.frame.b1.toNat * 2 ^ 16 + s.frame.b2.toNat * 2 ^ 8 + s.frame.b3.toNat) / 2 ^ 4
    let tr := (s.frame.b3.toNat % 16) * 2 ^ 16 + s.frame.b4.toNat * 2 ^ 8 + s.frame.b5.toNat
    let u := { s with
      rawh := BitVec.ofNat 20 hr, rawt := BitVec.ofNat 20 tr
      temp := BitVec.ofInt 32 (((tr * 625) / 32768 : Nat) - 5000 : Int), hum := BitVec.ofNat 32 (hr / 10486)
      req := none, cpl := none }
    hr < 2 ^ 20 ∧ tr < 2 ^ 20
      ∧ exec .dec s = .next (if s.cmd = 6#3 then { u with state := .hic } else { u with state := .idle, done := true })

/-- R100, R101: the two 20-bit fields of a frame. That they share no bit of `frame[3]` is the spec's own inference (R101:
"The two fields share no bit [derived: from this rule and rule R100]"). -/
def Obligations.RawFieldLayout : Prop :=
  ∀ f : Frame,
    (humidRaw f).toNat = f.b1.toNat * 2 ^ 12 + f.b2.toNat * 2 ^ 4 + f.b3.toNat / 16
      ∧ (tempRaw f).toNat = (f.b3.toNat % 16) * 2 ^ 16 + f.b4.toNat * 2 ^ 8 + f.b5.toNat
      ∧ ∀ b : Byte, (b.toNat / 16 = f.b3.toNat / 16 → humidRaw { f with b3 := b } = humidRaw f)
        ∧ (b.toNat % 16 = f.b3.toNat % 16 → tempRaw { f with b3 := b } = tempRaw f)

/-- R105: DEC is deterministic in `frame[1..5]`: two blocks that agree there leave the same four registers, whatever else
they hold. -/
def Obligations.DecDependsOnlyOnFieldBytes : Prop :=
  ∀ s t : State, s.frame.b1 = t.frame.b1 → s.frame.b2 = t.frame.b2 → s.frame.b3 = t.frame.b3 →
    s.frame.b4 = t.frame.b4 → s.frame.b5 = t.frame.b5 →
    ∃ s' t', exec .dec s = .next s' ∧ exec .dec t = .next t' ∧ s'.rawh = t'.rawh ∧ s'.rawt = t'.rawt
      ∧ s'.temp = t'.temp ∧ s'.hum = t'.hum ∧ s'.frame = s.frame ∧ t'.frame = t.frame

/-- R106, R107: the decoder's ranges, with both ends reached, and the corner values. -/
def Obligations.DecoderRanges : Prop :=
  (∀ f : Frame, -5000 ≤ centiTemp (tempRaw f) ∧ centiTemp (tempRaw f) ≤ 14999
      ∧ s32 (wrap32 (centiTemp (tempRaw f))) = centiTemp (tempRaw f) ∧ humPercent (humidRaw f) ≤ 99)
    ∧ (∀ tr : BitVec 20, tr.toNat ≤ 52 → centiTemp tr = -5000) ∧ (∀ hr : BitVec 20, hr.toNat ≤ 10485 → humPercent hr = 0)
    ∧ centiTemp 53#20 = -4999 ∧ centiTemp 0x3FFFF#20 = -1 ∧ centiTemp 0x40000#20 = 0
    ∧ centiTemp 0x80000#20 = 5000 ∧ centiTemp 0xFFFFF#20 = 14999 ∧ humPercent 10486#20 = 1
    ∧ humPercent 104859#20 = 9 ∧ humPercent 104860#20 = 10 ∧ humPercent 0xFFFFF#20 = 99

/-- R109, R112: HIC writes the rounded value of `HI_POLY`, wrapped to 32 bits, and enters CLS. It holds for every instance
of `HI_POLY`: `Config.hiPoly` has no body (log entry 4). -/
def Obligations.HicWritesRoundedIndex : Prop :=
  ∀ s : State, exec .hic s = .next { s with
    hi := BitVec.ofInt 32 (rhaz (Config.hiPoly s.temp.toInt s.hum.toNat)), state := .cls, req := none, cpl := none }

/-- R111: the two branches of `RHAZ`. What follows from them is inference: it is a nearest integer, halves go away from zero,
it is odd, and it fixes the integers (U12: "[derived: from ... R111]"). -/
def Obligations.RoundsHalfAwayFromZero : Prop :=
  ∀ x : Rat,
    (0 ≤ x → rhaz x = (x + 1 / 2).floor) ∧ (x < 0 → rhaz x = -(-x + 1 / 2).floor)
      ∧ |x - (rhaz x : Rat)| ≤ 1 / 2 ∧ (|x - (rhaz x : Rat)| = 1 / 2 → |x| < |(rhaz x : Rat)|)
      ∧ rhaz (-x) = -rhaz x ∧ ∀ n : Int, rhaz (n : Rat) = n

/-- R114, R115: CLS writes the code of the first threshold that exceeds the signed `HI`, and enters IDLE with `DONE`. -/
def Obligations.ClsWritesBand : Prop :=
  ∀ s : State, exec .cls s = .next { s with
    band := if s.hi.toInt < 1 then 0#3 else if s.hi.toInt < 11 then 1#3 else if s.hi.toInt < 18 then 2#3
      else if s.hi.toInt < 28 then 3#3 else if s.hi.toInt < 35 then 4#3 else 5#3
    state := .idle, req := none, cpl := none, done := true }

/-- R114: the six half-open bands, for every integer. -/
def Obligations.ClassifierThresholds : Prop :=
  ∀ h : Int,
    (h ≤ 0 → (classifyBand h).code = 0#3) ∧ (1 ≤ h → h ≤ 10 → (classifyBand h).code = 1#3)
      ∧ (11 ≤ h → h ≤ 17 → (classifyBand h).code = 2#3) ∧ (18 ≤ h → h ≤ 27 → (classifyBand h).code = 3#3)
      ∧ (28 ≤ h → h ≤ 34 → (classifyBand h).code = 4#3) ∧ (35 ≤ h → (classifyBand h).code = 5#3)

/-- R116: the classifier is monotone, and it never gives code 6 or 7. -/
def Obligations.ClassifierMonotone : Prop :=
  ∀ h k : Int, h ≤ k → (classifyBand h).code.toNat ≤ (classifyBand k).code.toNat ∧ (classifyBand k).code.toNat ≤ 5

/-- R113 (the spec's own inference): over the decoder's outputs `|HI_REF|` < 9872, so `HI` does not wrap under `HI_REF`. It
rests on the coefficients of R110, which are general knowledge (G1; log entry 4, PRESUMED). -/
def Obligations.ReferenceIndexBounded : Prop :=
  ∀ temp hum : Int, -5000 ≤ temp → temp ≤ 14999 → 0 ≤ hum → hum ≤ 99 →
    |hiRef temp hum| < 9872 ∧ s32 (wrap32 (rhaz (hiRef temp hum))) = rhaz (hiRef temp hum)

/-- The frame of the three datapath steps (R99, R112, R115): each leaves every register but its own. -/
def Obligations.DatapathFrame : Prop :=
  ∀ (s t : State) (i : Instr), (i = .dec ∨ i = .hic ∨ i = .cls) → exec i s = .next t →
    t.frame = s.frame ∧ t.cmd = s.cmd ∧ t.initd = s.initd ∧ t.err = s.err ∧ t.trace = s.trace ∧ t.turns = s.turns
      ∧ t.host = s.host ∧ t.sensor = s.sensor ∧ t.drawn = s.drawn ∧ t.busHung = s.busHung ∧ t.tmrHung = s.tmrHung
      ∧ (i ≠ .dec → t.rawh = s.rawh ∧ t.rawt = s.rawt ∧ t.temp = s.temp ∧ t.hum = s.hum)
      ∧ (i ≠ .hic → t.hi = s.hi) ∧ (i ≠ .cls → t.band = s.band) ∧ (t.state ≠ .idle → t.done = s.done)

/-! ## The whole machine -/

/-- Every invariant of Safety.lean holds right after reset. -/
def Obligations.InvariantsHoldAtReset : Prop :=
  ProtocolInv State.reset ∧ ErrInv State.reset.err ∧ ResultInv State.reset ∧ TranscriptInv State.reset
    ∧ PortInv State.reset ∧ Quiescent State.reset ∧ NoError State.reset

/-- R33, R79, R83: every step of every agent keeps the protocol invariant. -/
def Obligations.StepKeepsProtocolInv : Prop :=
  ∀ s t : State, ProtocolInv s → step s = .next t → ProtocolInv t

/-- R21, R22, R24, R27: every step keeps the ranges of the results and the invariant of `ERR`. -/
def Obligations.StepKeepsResultAndErrInv : Prop :=
  ∀ s t : State, ResultInv s → ErrInv s.err → step s = .next t → ResultInv t ∧ ErrInv t.err

/-- R95, R96: every step keeps the transcript: the last `Issue` events of the history are exactly those of the running
command up to its present state; and in I_WAIT and R_WAIT that is the whole transcript. -/
def Obligations.StepKeepsTranscript : Prop :=
  (∀ s t : State, TranscriptInv s → step s = .next t → TranscriptInv t)
    ∧ (∀ s : State, TranscriptInv s → s.state = .iWait → initTranscript <:+ issues s.trace)
    ∧ (∀ s : State, TranscriptInv s → s.state = .rWait → readTranscript <:+ issues s.trace)

/-- R50: every step keeps the port discipline: a request is issued only when the one before has completed, and between two
`Issue` events stands exactly one `Complete` event, that of the first. -/
def Obligations.StepKeepsPortDiscipline : Prop :=
  ∀ s t : State, ProtocolInv s → PortInv s → step s = .next t → PortInv t

/-- R51, R16, R41: a register changes only at the step that writes it: `frame[i]` at `R_Bi` or by an idle host write, the
decoder's four at DEC, `HI` at HIC or by an idle host write, `BAND` at CLS; reset apart. -/
def Obligations.RegistersChangeOnlyAtTheirSteps : Prop :=
  ∀ s t : State, (popTurn s).1 ≠ .reset → step s = .next t →
    (t.frame ≠ s.frame → ((popTurn s).1 = .host ∧ s.state = .idle)
        ∨ ((popTurn s).1 = .fsm ∧ s.cpl ≠ none ∧ (s.state = .rB0 ∨ s.state = .rB1 ∨ s.state = .rB2 ∨ s.state = .rB3 ∨ s.state = .rB4 ∨ s.state = .rB5)))
      ∧ (t.rawh ≠ s.rawh ∨ t.rawt ≠ s.rawt ∨ t.temp ≠ s.temp ∨ t.hum ≠ s.hum → (popTurn s).1 = .fsm ∧ s.state = .dec)
      ∧ (t.hi ≠ s.hi → ((popTurn s).1 = .host ∧ s.state = .idle) ∨ ((popTurn s).1 = .fsm ∧ s.state = .hic))
      ∧ (t.band ≠ s.band → (popTurn s).1 = .fsm ∧ s.state = .cls)

/-- R28, R31, R32, R127: what only reset undoes: no other step clears an `ERR` bit, changes a recorded `CAUSE`, or clears
`INITD`; `INITD` is set only by a host step from IDLE, `DONE` only by entering IDLE, and it is cleared only by a host step. -/
def Obligations.OnlyResetClearsErrorsAndSession : Prop :=
  ∀ s t : State, (popTurn s).1 ≠ .reset → step s = .next t →
    (s.err.pre = true → t.err.pre = true) ∧ (s.err.ovr = true → t.err.ovr = true) ∧ (s.err.rsv = true → t.err.rsv = true)
      ∧ (s.err.cause ≠ 0#4 → t.err.cause = s.err.cause) ∧ (t.err ≠ s.err → (popTurn s).1 = .host)
      ∧ (s.initd = true → t.initd = true)
      ∧ (s.initd = false → t.initd = true → (popTurn s).1 = .host ∧ s.state = .idle ∧ t.state = .iStart)
      ∧ (s.done = false → t.done = true → (popTurn s).1 = .fsm ∧ s.state ≠ .idle ∧ t.state = .idle)
      ∧ (s.done = true → t.done = false → (popTurn s).1 = .host ∧ s.state = .idle ∧ t.state ≠ .idle)

/-- R53, R67: while busy no host step moves the FSM, and from IDLE only a host step does. -/
def Obligations.CommandsAcceptedOnlyInIdle : Prop :=
  ∀ s t : State, (popTurn s).1 ≠ .reset → step s = .next t →
    ((t.state ≠ s.state ∨ t.cmd ≠ s.cmd) → ((popTurn s).1 = .fsm ∧ s.state ≠ .idle) ∨ ((popTurn s).1 = .host ∧ s.state = .idle))
      ∧ (t.cmd ≠ s.cmd → (popTurn s).1 = .host) ∧ (s.state = .idle → t.state ≠ .idle → t.state = firstState t.cmd ∧ t.done = false)

/-- R55, R86: a block that waits for a completion holds in its request state, and `BUSY` stays 1, for any number of steps
without a reset: while no provider moves, and, with any schedule, when the provider it waits for never completes. In the
second case it is stuck, and stays so, and is at no end of a run. -/
def Obligations.NoCompletionNoProgress : Prop :=
  ∀ (n : Nat) (s t : State) (r : Request), reqOf s.state = some r → s.req = some r → s.cpl = none →
    n ≤ s.turns.length → runSteps n s = .next t →
    ((∀ a ∈ s.turns, a = .host ∨ a = .fsm) →
        t.state = s.state ∧ t.req = s.req ∧ t.cpl = none ∧ t.cmd = s.cmd ∧ t.busy = true)
      ∧ ((∀ a ∈ s.turns, a ≠ .reset) → WaitsOnHungProvider s →
        t.state = s.state ∧ t.req = s.req ∧ t.cpl = none ∧ t.cmd = s.cmd ∧ t.busy = true ∧ Stuck t ∧ ¬ RunEnded t)

/-- R55, R79, R82, R84, R85, R86: a busy block is stuck exactly when the provider it waits for never completes. Otherwise
the FSM or the provider of its request is enabled and leaves strictly less work until IDLE (that it is ever scheduled is no
part of the step: log entry 8); no host step adds work. -/
def Obligations.BusyBlockCanProgress : Prop :=
  ∀ s : State, ProtocolInv s → s.state ≠ .idle →
    (Stuck s ↔ WaitsOnHungProvider s)
      ∧ (¬ WaitsOnHungProvider s → ∃ t, takeTurn (mover s) s = .next t ∧ workLeft t < workLeft s)
      ∧ (∀ t, takeTurn .host s = .next t → workLeft t = workLeft s)

/-- R71, R72, R73, R79: DECODE, DERIVE and CLASSIFY run to their ends: one, two and one FSM steps after acceptance, with
`DONE`, no session needed and nothing issued. It holds for every instance of `HI_POLY`: `Config.hiPoly` has no body (log
entry 4). -/
def Obligations.PureCommandsRunToCompletion : Prop :=
  ∀ (s : State) (ign : BitVec 29) (ts : List Turn) (hs : List HostOp), s.state = .idle →
    let hi := wrap32 (rhaz (Config.hiPoly (s32 s.temp) (s.hum.toNat : Int)))
    (s.turns = .host :: .fsm :: ts → s.host = .command (ctrlWord ign 3#3) :: hs →
        runSteps 2 s = .next { s with
          cmd := 3#3, done := true, req := none, cpl := none, turns := ts, host := hs
          rawh := humidRaw s.frame, rawt := tempRaw s.frame, temp := wrap32 (centiTemp (tempRaw s.frame))
          hum := BitVec.ofNat 32 (humPercent (humidRaw s.frame))
          trace := s.trace ++ [.hostWrite 0x00#8 (ctrlWord ign 3#3)] })
      ∧ (s.turns = .host :: .fsm :: .fsm :: ts → s.host = .command (ctrlWord ign 4#3) :: hs →
        runSteps 3 s = .next { s with
          cmd := 4#3, done := true, req := none, cpl := none, turns := ts, host := hs
          hi := hi, band := (classifyBand (s32 hi)).code
          trace := s.trace ++ [.hostWrite 0x00#8 (ctrlWord ign 4#3)] })
      ∧ (s.turns = .host :: .fsm :: ts → s.host = .command (ctrlWord ign 5#3) :: hs →
        runSteps 2 s = .next { s with
          cmd := 5#3, done := true, req := none, cpl := none, turns := ts, host := hs
          band := (classifyBand (s32 s.hi)).code
          trace := s.trace ++ [.hostWrite 0x00#8 (ctrlWord ign 5#3)] })

/-- R69, R95: INIT run to its end with no delay between turns: from acceptance, its fourteen steps issue exactly the INIT
transcript and return to IDLE with `DONE`; no data register changes. -/
def Obligations.InitRunsToCompletion : Prop :=
  ∀ (s : State) (ign : BitVec 29) (ts : List Turn) (hs : List HostOp), s.state = .idle → s.initd = false →
    s.busHung = false → s.tmrHung = false → s.turns = .host :: initTurns ++ ts → s.host = .command (ctrlWord ign 1#3) :: hs →
    ∃ t, runSteps 15 s = .next t
      ∧ t.state = .idle ∧ t.done = true ∧ t.initd = true ∧ t.req = none ∧ t.cpl = none ∧ t.err = s.err
      ∧ issues t.trace = issues s.trace ++ initTranscript ∧ t.frame = s.frame ∧ t.rawh = s.rawh ∧ t.rawt = s.rawt
      ∧ t.temp = s.temp ∧ t.hum = s.hum ∧ t.hi = s.hi ∧ t.band = s.band ∧ t.turns = ts ∧ t.host = hs

/-- R70, R96: READ_RAW run to its end with no delay between turns: the six bytes reach the frame in wire order, the
transcript is that of R96, and the decoded registers keep their old values. -/
def Obligations.ReadRawRunsToCompletion : Prop :=
  ∀ (s : State) (ign : BitVec 29) (ts : List Turn) (hs : List HostOp) (b0 b1 b2 b3 b4 b5 : Byte) (bs : List Byte),
    s.state = .idle → s.initd = true → s.busHung = false → s.tmrHung = false → s.turns = .host :: readTurns ++ ts →
    s.host = .command (ctrlWord ign 2#3) :: hs → s.sensor = [b0, b1, b2, b3, b4, b5] ++ bs →
    ∃ t, runSteps 35 s = .next t
      ∧ t.state = .idle ∧ t.done = true ∧ t.req = none ∧ t.cpl = none ∧ t.err = s.err
      ∧ t.frame = ⟨b0, b1, b2, b3, b4, b5⟩ ∧ issues t.trace = issues s.trace ++ readTranscript
      ∧ t.rawh = s.rawh ∧ t.rawt = s.rawt ∧ t.temp = s.temp ∧ t.hum = s.hum ∧ t.hi = s.hi ∧ t.band = s.band
      ∧ t.turns = ts ∧ t.host = hs ∧ t.sensor = bs

/-- R74, R96: MEASURE run to its end with no delay between turns: the frame is the six bytes, the results are those of
DECODE and then DERIVE on it, whatever the status byte is, and the transcript is that of R96. It holds for every
instance of `HI_POLY`: `Config.hiPoly` has no body (log entry 4). -/
def Obligations.MeasureRunsToCompletion : Prop :=
  ∀ (s : State) (ign : BitVec 29) (ts : List Turn) (hs : List HostOp) (b0 b1 b2 b3 b4 b5 : Byte) (bs : List Byte),
    s.state = .idle → s.initd = true → s.busHung = false → s.tmrHung = false → s.turns = .host :: measureTurns ++ ts →
    s.host = .command (ctrlWord ign 6#3) :: hs → s.sensor = [b0, b1, b2, b3, b4, b5] ++ bs →
    let f : Frame := ⟨b0, b1, b2, b3, b4, b5⟩
    ∃ t, runSteps 38 s = .next t
      ∧ t.state = .idle ∧ t.done = true ∧ t.req = none ∧ t.cpl = none ∧ t.err = s.err
      ∧ t.frame = f ∧ issues t.trace = issues s.trace ++ readTranscript
      ∧ t.rawh = humidRaw f ∧ t.rawt = tempRaw f ∧ s32 t.temp = centiTemp (tempRaw f)
      ∧ t.hum.toNat = humPercent (humidRaw f)
      ∧ t.hi = wrap32 (rhaz (Config.hiPoly (centiTemp (tempRaw f)) (humPercent (humidRaw f))))
      ∧ t.band = (classifyBand (s32 t.hi)).code ∧ (t.valid = true ↔ b0 = 0x19#8)
      ∧ t.turns = ts ∧ t.host = hs ∧ t.sensor = bs
end

