-- ==== Sys2Proof/Laws/Encoding.lean ====
section
/-! SUPPORT. The fields of the packed words (R56), read back; and the codes of the FSM states (R29). -/

namespace Sys2Proof

/-- The low field of a concatenation. -/
theorem extract_low {n m : Nat} (x : BitVec n) (y : BitVec m) : (x ++ y).extractLsb' 0 m = y := by
  apply BitVec.eq_of_getLsbD_eq
  intro i hi
  simp [BitVec.getLsbD_append, hi]

/-- The high field of a concatenation. -/
theorem extract_high {n m : Nat} (x : BitVec n) (y : BitVec m) : (x ++ y).extractLsb' m n = x := by
  apply BitVec.eq_of_getLsbD_eq
  intro i hi
  simp [BitVec.getLsbD_append, hi]

/-- The middle field of a concatenation of three. -/
theorem extract_mid {n m k : Nat} (x : BitVec n) (y : BitVec m) (z : BitVec k) :
    (x ++ y ++ z).extractLsb' k m = y := by
  apply BitVec.eq_of_getLsbD_eq
  intro i hi
  simp [BitVec.getLsbD_append, hi]

/-- The high field of a concatenation of three. -/
theorem extract_top {n m k j : Nat} (x : BitVec n) (y : BitVec m) (z : BitVec k) (hj : j = m + k) :
    (x ++ y ++ z).extractLsb' j n = x := by
  subst hj
  apply BitVec.eq_of_getLsbD_eq
  intro i hi
  simp [BitVec.getLsbD_append, hi, show ¬ (m + k + i < k) by omega,
    show m + k + i - k = m + i by omega]

/-- The lowest bit of a concatenation that ends in a single bit. -/
theorem getLsbD_lowBit {n : Nat} (x : BitVec n) (b : Bool) : (x ++ BitVec.ofBool b).getLsbD 0 = b := by
  rw [BitVec.getLsbD_append]
  simp

/-- The highest bit of a concatenation that begins with a single bit. -/
theorem getLsbD_topBit {m k j : Nat} (b : Bool) (y : BitVec m) (z : BitVec k) (hj : j = m + k) :
    (BitVec.ofBool b ++ y ++ z).getLsbD j = b := by
  subst hj
  rw [BitVec.getLsbD_append, BitVec.getLsbD_append]
  simp

@[simp] theorem busopWord_op (op : BitVec 3) (arg : Byte) (ack : Bool) :
    (busopWord op arg ack).extractLsb' 9 3 = op := extract_top op arg (BitVec.ofBool ack) rfl

@[simp] theorem busopWord_arg (op : BitVec 3) (arg : Byte) (ack : Bool) :
    (busopWord op arg ack).extractLsb' 1 8 = arg := extract_mid op arg (BitVec.ofBool ack)

theorem busopWord_ack (op : BitVec 3) (arg : Byte) (ack : Bool) :
    (busopWord op arg ack).getLsbD 0 = ack := getLsbD_lowBit (op ++ arg) ack

@[simp] theorem busopWord_ackBit (op : BitVec 3) (arg : Byte) (ack : Bool) :
    (busopWord op arg ack)[0] = ack := busopWord_ack op arg ack

@[simp] theorem ctrlWord_code (ign : BitVec 29) (c : BitVec 3) : (ctrlWord ign c).extractLsb' 0 3 = c :=
  extract_low ign c

@[simp] theorem ctrlWord_ign (ign : BitVec 29) (c : BitVec 3) : (ctrlWord ign c).extractLsb' 3 29 = ign :=
  extract_high ign c

@[simp] theorem cmdField_ctrlWord (ign : BitVec 29) (c : BitVec 3) : Machine.cmdField (ctrlWord ign c) = c :=
  ctrlWord_code ign c

theorem hostaccWord_we (we : Bool) (off : BitVec 8) (v : Word) : (hostaccWord we off v).getLsbD 38 = we :=
  getLsbD_topBit we (off.extractLsb' 2 6) v rfl

@[simp] theorem hostaccWord_weBit (we : Bool) (off : BitVec 8) (v : Word) : (hostaccWord we off v)[38] = we :=
  hostaccWord_we we off v

@[simp] theorem hostaccWord_data (we : Bool) (off : BitVec 8) (v : Word) :
    (hostaccWord we off v).extractLsb' 0 32 = v := extract_low (BitVec.ofBool we ++ off.extractLsb' 2 6) v

@[simp] theorem hostaccWord_index (we : Bool) (off : BitVec 8) (v : Word) :
    (hostaccWord we off v).extractLsb' 32 6 = off.extractLsb' 2 6 :=
  extract_mid (BitVec.ofBool we) (off.extractLsb' 2 6) v

/-- R39: an offset rebuilt from its word index is itself exactly when it is a word offset. -/
theorem offset_of_index : ∀ off : BitVec 8, wordAligned off = true → off.extractLsb' 2 6 ++ 0#2 = off := by
  decide +kernel

/-- R60: every offset the port carries is a word offset. -/
theorem wordAligned_index : ∀ k : BitVec 6, wordAligned (k ++ 0#2) = true := by decide +kernel

/-- R58: with `arg[7]` = 0, the argument is its seven address bits. -/
theorem arg_of_addr : ∀ arg : Byte, arg.getLsbD 7 = false → 0#1 ++ arg.extractLsb' 0 7 = arg := by decide +kernel

theorem addr_of_arg : ∀ a : BitVec 7, (0#1 ++ a).extractLsb' 0 7 = a ∧ (0#1 ++ a).getLsbD 7 = false := by decide +kernel

@[simp] theorem arg_topBit (a : BitVec 7) : (0#1 ++ a)[7] = false := (addr_of_arg a).2

@[simp] theorem arg_addr (a : BitVec 7) : (0#1 ++ a).extractLsb' 0 7 = a := (addr_of_arg a).1

/-- A word is its bits [31:3] above its bits [2:0]. -/
theorem ctrlWord_fields (w : Word) : ctrlWord (w.extractLsb' 3 29) (w.extractLsb' 0 3) = w := by
  apply BitVec.eq_of_getLsbD_eq
  intro i hi
  rw [show (ctrlWord (w.extractLsb' 3 29) (w.extractLsb' 0 3)).getLsbD i = _ from BitVec.getLsbD_append]
  simp only [BitVec.getLsbD_extractLsb']
  by_cases h : i < 3
  · simp [h]
  · simp [h, show i - 3 < 29 by omega, show 3 + (i - 3) = i by omega]

namespace Machine

/-- R29: the 32 codes and the states are in one-to-one correspondence. -/
theorem code_ofCode : ∀ c : BitVec 5, (FsmState.ofCode c).code = c := by decide +kernel

theorem ofCode_code (st : FsmState) : FsmState.ofCode st.code = st := by
  cases st with
  | unused k => revert k; decide
  | _ => rfl

end Machine
end Sys2Proof
end

