-- ==== Sys2Proof/Laws/State.lean ====
section
/-! SUPPORT. One lemma per field per named update of the state, true by rfl. -/

namespace Sys2Proof.Machine

@[simp] theorem logEvent_state (e : Event) (s : State) : (logEvent e s).state = s.state := rfl
@[simp] theorem logEvent_cmd (e : Event) (s : State) : (logEvent e s).cmd = s.cmd := rfl
@[simp] theorem logEvent_initd (e : Event) (s : State) : (logEvent e s).initd = s.initd := rfl
@[simp] theorem logEvent_done (e : Event) (s : State) : (logEvent e s).done = s.done := rfl
@[simp] theorem logEvent_req (e : Event) (s : State) : (logEvent e s).req = s.req := rfl
@[simp] theorem logEvent_cpl (e : Event) (s : State) : (logEvent e s).cpl = s.cpl := rfl
@[simp] theorem logEvent_err (e : Event) (s : State) : (logEvent e s).err = s.err := rfl
@[simp] theorem logEvent_frame (e : Event) (s : State) : (logEvent e s).frame = s.frame := rfl
@[simp] theorem logEvent_rawh (e : Event) (s : State) : (logEvent e s).rawh = s.rawh := rfl
@[simp] theorem logEvent_rawt (e : Event) (s : State) : (logEvent e s).rawt = s.rawt := rfl
@[simp] theorem logEvent_temp (e : Event) (s : State) : (logEvent e s).temp = s.temp := rfl
@[simp] theorem logEvent_hum (e : Event) (s : State) : (logEvent e s).hum = s.hum := rfl
@[simp] theorem logEvent_hi (e : Event) (s : State) : (logEvent e s).hi = s.hi := rfl
@[simp] theorem logEvent_band (e : Event) (s : State) : (logEvent e s).band = s.band := rfl
@[simp] theorem logEvent_trace (e : Event) (s : State) : (logEvent e s).trace = s.trace ++ [e] := rfl
@[simp] theorem logEvent_turns (e : Event) (s : State) : (logEvent e s).turns = s.turns := rfl
@[simp] theorem logEvent_host (e : Event) (s : State) : (logEvent e s).host = s.host := rfl
@[simp] theorem logEvent_sensor (e : Event) (s : State) : (logEvent e s).sensor = s.sensor := rfl
@[simp] theorem logEvent_drawn (e : Event) (s : State) : (logEvent e s).drawn = s.drawn := rfl
@[simp] theorem logEvent_busHung (e : Event) (s : State) : (logEvent e s).busHung = s.busHung := rfl
@[simp] theorem logEvent_tmrHung (e : Event) (s : State) : (logEvent e s).tmrHung = s.tmrHung := rfl

@[simp] theorem raiseError_state (c : ErrCause) (s : State) : (raiseError c s).state = s.state := rfl
@[simp] theorem raiseError_cmd (c : ErrCause) (s : State) : (raiseError c s).cmd = s.cmd := rfl
@[simp] theorem raiseError_initd (c : ErrCause) (s : State) : (raiseError c s).initd = s.initd := rfl
@[simp] theorem raiseError_done (c : ErrCause) (s : State) : (raiseError c s).done = s.done := rfl
@[simp] theorem raiseError_req (c : ErrCause) (s : State) : (raiseError c s).req = s.req := rfl
@[simp] theorem raiseError_cpl (c : ErrCause) (s : State) : (raiseError c s).cpl = s.cpl := rfl
@[simp] theorem raiseError_err (c : ErrCause) (s : State) : (raiseError c s).err = s.err.record c := rfl
@[simp] theorem raiseError_frame (c : ErrCause) (s : State) : (raiseError c s).frame = s.frame := rfl
@[simp] theorem raiseError_rawh (c : ErrCause) (s : State) : (raiseError c s).rawh = s.rawh := rfl
@[simp] theorem raiseError_rawt (c : ErrCause) (s : State) : (raiseError c s).rawt = s.rawt := rfl
@[simp] theorem raiseError_temp (c : ErrCause) (s : State) : (raiseError c s).temp = s.temp := rfl
@[simp] theorem raiseError_hum (c : ErrCause) (s : State) : (raiseError c s).hum = s.hum := rfl
@[simp] theorem raiseError_hi (c : ErrCause) (s : State) : (raiseError c s).hi = s.hi := rfl
@[simp] theorem raiseError_band (c : ErrCause) (s : State) : (raiseError c s).band = s.band := rfl
@[simp] theorem raiseError_trace (c : ErrCause) (s : State) : (raiseError c s).trace = s.trace := rfl
@[simp] theorem raiseError_turns (c : ErrCause) (s : State) : (raiseError c s).turns = s.turns := rfl
@[simp] theorem raiseError_host (c : ErrCause) (s : State) : (raiseError c s).host = s.host := rfl
@[simp] theorem raiseError_sensor (c : ErrCause) (s : State) : (raiseError c s).sensor = s.sensor := rfl
@[simp] theorem raiseError_drawn (c : ErrCause) (s : State) : (raiseError c s).drawn = s.drawn := rfl
@[simp] theorem raiseError_busHung (c : ErrCause) (s : State) : (raiseError c s).busHung = s.busHung := rfl
@[simp] theorem raiseError_tmrHung (c : ErrCause) (s : State) : (raiseError c s).tmrHung = s.tmrHung := rfl

@[simp] theorem complete_state (r : Request) (d : Byte) (s : State) : (complete r d s).state = s.state := rfl
@[simp] theorem complete_cmd (r : Request) (d : Byte) (s : State) : (complete r d s).cmd = s.cmd := rfl
@[simp] theorem complete_initd (r : Request) (d : Byte) (s : State) : (complete r d s).initd = s.initd := rfl
@[simp] theorem complete_done (r : Request) (d : Byte) (s : State) : (complete r d s).done = s.done := rfl
@[simp] theorem complete_req (r : Request) (d : Byte) (s : State) : (complete r d s).req = s.req := rfl
@[simp] theorem complete_cpl (r : Request) (d : Byte) (s : State) : (complete r d s).cpl = some d := rfl
@[simp] theorem complete_err (r : Request) (d : Byte) (s : State) : (complete r d s).err = s.err := rfl
@[simp] theorem complete_frame (r : Request) (d : Byte) (s : State) : (complete r d s).frame = s.frame := rfl
@[simp] theorem complete_rawh (r : Request) (d : Byte) (s : State) : (complete r d s).rawh = s.rawh := rfl
@[simp] theorem complete_rawt (r : Request) (d : Byte) (s : State) : (complete r d s).rawt = s.rawt := rfl
@[simp] theorem complete_temp (r : Request) (d : Byte) (s : State) : (complete r d s).temp = s.temp := rfl
@[simp] theorem complete_hum (r : Request) (d : Byte) (s : State) : (complete r d s).hum = s.hum := rfl
@[simp] theorem complete_hi (r : Request) (d : Byte) (s : State) : (complete r d s).hi = s.hi := rfl
@[simp] theorem complete_band (r : Request) (d : Byte) (s : State) : (complete r d s).band = s.band := rfl
@[simp] theorem complete_trace (r : Request) (d : Byte) (s : State) : (complete r d s).trace = s.trace ++ [.complete r d] := rfl
@[simp] theorem complete_turns (r : Request) (d : Byte) (s : State) : (complete r d s).turns = s.turns := rfl
@[simp] theorem complete_host (r : Request) (d : Byte) (s : State) : (complete r d s).host = s.host := rfl
@[simp] theorem complete_sensor (r : Request) (d : Byte) (s : State) : (complete r d s).sensor = s.sensor := rfl
@[simp] theorem complete_drawn (r : Request) (d : Byte) (s : State) : (complete r d s).drawn = s.drawn := rfl
@[simp] theorem complete_busHung (r : Request) (d : Byte) (s : State) : (complete r d s).busHung = s.busHung := rfl
@[simp] theorem complete_tmrHung (r : Request) (d : Byte) (s : State) : (complete r d s).tmrHung = s.tmrHung := rfl

@[simp] theorem decodeFrame_state (s : State) : (decodeFrame s).state = s.state := rfl
@[simp] theorem decodeFrame_cmd (s : State) : (decodeFrame s).cmd = s.cmd := rfl
@[simp] theorem decodeFrame_initd (s : State) : (decodeFrame s).initd = s.initd := rfl
@[simp] theorem decodeFrame_done (s : State) : (decodeFrame s).done = s.done := rfl
@[simp] theorem decodeFrame_req (s : State) : (decodeFrame s).req = s.req := rfl
@[simp] theorem decodeFrame_cpl (s : State) : (decodeFrame s).cpl = s.cpl := rfl
@[simp] theorem decodeFrame_err (s : State) : (decodeFrame s).err = s.err := rfl
@[simp] theorem decodeFrame_frame (s : State) : (decodeFrame s).frame = s.frame := rfl
@[simp] theorem decodeFrame_rawh (s : State) : (decodeFrame s).rawh = humidRaw s.frame := rfl
@[simp] theorem decodeFrame_rawt (s : State) : (decodeFrame s).rawt = tempRaw s.frame := rfl
@[simp] theorem decodeFrame_temp (s : State) : (decodeFrame s).temp = wrap32 (centiTemp (tempRaw s.frame)) := rfl
@[simp] theorem decodeFrame_hum (s : State) : (decodeFrame s).hum = BitVec.ofNat 32 (humPercent (humidRaw s.frame)) := rfl
@[simp] theorem decodeFrame_hi (s : State) : (decodeFrame s).hi = s.hi := rfl
@[simp] theorem decodeFrame_band (s : State) : (decodeFrame s).band = s.band := rfl
@[simp] theorem decodeFrame_trace (s : State) : (decodeFrame s).trace = s.trace := rfl
@[simp] theorem decodeFrame_turns (s : State) : (decodeFrame s).turns = s.turns := rfl
@[simp] theorem decodeFrame_host (s : State) : (decodeFrame s).host = s.host := rfl
@[simp] theorem decodeFrame_sensor (s : State) : (decodeFrame s).sensor = s.sensor := rfl
@[simp] theorem decodeFrame_drawn (s : State) : (decodeFrame s).drawn = s.drawn := rfl
@[simp] theorem decodeFrame_busHung (s : State) : (decodeFrame s).busHung = s.busHung := rfl
@[simp] theorem decodeFrame_tmrHung (s : State) : (decodeFrame s).tmrHung = s.tmrHung := rfl

@[simp] theorem writeHeatIndex_state (p : Int → Int → Rat) (s : State) : (writeHeatIndex p s).state = s.state := rfl
@[simp] theorem writeHeatIndex_cmd (p : Int → Int → Rat) (s : State) : (writeHeatIndex p s).cmd = s.cmd := rfl
@[simp] theorem writeHeatIndex_initd (p : Int → Int → Rat) (s : State) : (writeHeatIndex p s).initd = s.initd := rfl
@[simp] theorem writeHeatIndex_done (p : Int → Int → Rat) (s : State) : (writeHeatIndex p s).done = s.done := rfl
@[simp] theorem writeHeatIndex_req (p : Int → Int → Rat) (s : State) : (writeHeatIndex p s).req = s.req := rfl
@[simp] theorem writeHeatIndex_cpl (p : Int → Int → Rat) (s : State) : (writeHeatIndex p s).cpl = s.cpl := rfl
@[simp] theorem writeHeatIndex_err (p : Int → Int → Rat) (s : State) : (writeHeatIndex p s).err = s.err := rfl
@[simp] theorem writeHeatIndex_frame (p : Int → Int → Rat) (s : State) : (writeHeatIndex p s).frame = s.frame := rfl
@[simp] theorem writeHeatIndex_rawh (p : Int → Int → Rat) (s : State) : (writeHeatIndex p s).rawh = s.rawh := rfl
@[simp] theorem writeHeatIndex_rawt (p : Int → Int → Rat) (s : State) : (writeHeatIndex p s).rawt = s.rawt := rfl
@[simp] theorem writeHeatIndex_temp (p : Int → Int → Rat) (s : State) : (writeHeatIndex p s).temp = s.temp := rfl
@[simp] theorem writeHeatIndex_hum (p : Int → Int → Rat) (s : State) : (writeHeatIndex p s).hum = s.hum := rfl
@[simp] theorem writeHeatIndex_hi (p : Int → Int → Rat) (s : State) : (writeHeatIndex p s).hi = wrap32 (rhaz (p (s32 s.temp) (s.hum.toNat : Int))) := rfl
@[simp] theorem writeHeatIndex_band (p : Int → Int → Rat) (s : State) : (writeHeatIndex p s).band = s.band := rfl
@[simp] theorem writeHeatIndex_trace (p : Int → Int → Rat) (s : State) : (writeHeatIndex p s).trace = s.trace := rfl
@[simp] theorem writeHeatIndex_turns (p : Int → Int → Rat) (s : State) : (writeHeatIndex p s).turns = s.turns := rfl
@[simp] theorem writeHeatIndex_host (p : Int → Int → Rat) (s : State) : (writeHeatIndex p s).host = s.host := rfl
@[simp] theorem writeHeatIndex_sensor (p : Int → Int → Rat) (s : State) : (writeHeatIndex p s).sensor = s.sensor := rfl
@[simp] theorem writeHeatIndex_drawn (p : Int → Int → Rat) (s : State) : (writeHeatIndex p s).drawn = s.drawn := rfl
@[simp] theorem writeHeatIndex_busHung (p : Int → Int → Rat) (s : State) : (writeHeatIndex p s).busHung = s.busHung := rfl
@[simp] theorem writeHeatIndex_tmrHung (p : Int → Int → Rat) (s : State) : (writeHeatIndex p s).tmrHung = s.tmrHung := rfl

@[simp] theorem writeBand_state (s : State) : (writeBand s).state = s.state := rfl
@[simp] theorem writeBand_cmd (s : State) : (writeBand s).cmd = s.cmd := rfl
@[simp] theorem writeBand_initd (s : State) : (writeBand s).initd = s.initd := rfl
@[simp] theorem writeBand_done (s : State) : (writeBand s).done = s.done := rfl
@[simp] theorem writeBand_req (s : State) : (writeBand s).req = s.req := rfl
@[simp] theorem writeBand_cpl (s : State) : (writeBand s).cpl = s.cpl := rfl
@[simp] theorem writeBand_err (s : State) : (writeBand s).err = s.err := rfl
@[simp] theorem writeBand_frame (s : State) : (writeBand s).frame = s.frame := rfl
@[simp] theorem writeBand_rawh (s : State) : (writeBand s).rawh = s.rawh := rfl
@[simp] theorem writeBand_rawt (s : State) : (writeBand s).rawt = s.rawt := rfl
@[simp] theorem writeBand_temp (s : State) : (writeBand s).temp = s.temp := rfl
@[simp] theorem writeBand_hum (s : State) : (writeBand s).hum = s.hum := rfl
@[simp] theorem writeBand_hi (s : State) : (writeBand s).hi = s.hi := rfl
@[simp] theorem writeBand_band (s : State) : (writeBand s).band = (classifyBand (s32 s.hi)).code := rfl
@[simp] theorem writeBand_trace (s : State) : (writeBand s).trace = s.trace := rfl
@[simp] theorem writeBand_turns (s : State) : (writeBand s).turns = s.turns := rfl
@[simp] theorem writeBand_host (s : State) : (writeBand s).host = s.host := rfl
@[simp] theorem writeBand_sensor (s : State) : (writeBand s).sensor = s.sensor := rfl
@[simp] theorem writeBand_drawn (s : State) : (writeBand s).drawn = s.drawn := rfl
@[simp] theorem writeBand_busHung (s : State) : (writeBand s).busHung = s.busHung := rfl
@[simp] theorem writeBand_tmrHung (s : State) : (writeBand s).tmrHung = s.tmrHung := rfl

@[simp] theorem resetBlock_state (s : State) : (resetBlock s).state = State.reset.state := rfl
@[simp] theorem resetBlock_cmd (s : State) : (resetBlock s).cmd = State.reset.cmd := rfl
@[simp] theorem resetBlock_initd (s : State) : (resetBlock s).initd = State.reset.initd := rfl
@[simp] theorem resetBlock_done (s : State) : (resetBlock s).done = State.reset.done := rfl
@[simp] theorem resetBlock_req (s : State) : (resetBlock s).req = State.reset.req := rfl
@[simp] theorem resetBlock_cpl (s : State) : (resetBlock s).cpl = State.reset.cpl := rfl
@[simp] theorem resetBlock_err (s : State) : (resetBlock s).err = State.reset.err := rfl
@[simp] theorem resetBlock_frame (s : State) : (resetBlock s).frame = State.reset.frame := rfl
@[simp] theorem resetBlock_rawh (s : State) : (resetBlock s).rawh = State.reset.rawh := rfl
@[simp] theorem resetBlock_rawt (s : State) : (resetBlock s).rawt = State.reset.rawt := rfl
@[simp] theorem resetBlock_temp (s : State) : (resetBlock s).temp = State.reset.temp := rfl
@[simp] theorem resetBlock_hum (s : State) : (resetBlock s).hum = State.reset.hum := rfl
@[simp] theorem resetBlock_hi (s : State) : (resetBlock s).hi = State.reset.hi := rfl
@[simp] theorem resetBlock_band (s : State) : (resetBlock s).band = State.reset.band := rfl
@[simp] theorem resetBlock_trace (s : State) : (resetBlock s).trace = State.reset.trace := rfl
@[simp] theorem resetBlock_turns (s : State) : (resetBlock s).turns = s.turns := rfl
@[simp] theorem resetBlock_host (s : State) : (resetBlock s).host = s.host := rfl
@[simp] theorem resetBlock_sensor (s : State) : (resetBlock s).sensor = s.sensor := rfl
@[simp] theorem resetBlock_drawn (s : State) : (resetBlock s).drawn = s.drawn := rfl
@[simp] theorem resetBlock_busHung (s : State) : (resetBlock s).busHung = s.busHung := rfl
@[simp] theorem resetBlock_tmrHung (s : State) : (resetBlock s).tmrHung = s.tmrHung := rfl

@[simp] theorem enter_cmd (st : FsmState) (s : State) : (enter st s).cmd = s.cmd := by
  unfold enter; split <;> [rfl; (split <;> rfl)]
@[simp] theorem enter_initd (st : FsmState) (s : State) : (enter st s).initd = s.initd := by
  unfold enter; split <;> [rfl; (split <;> rfl)]
@[simp] theorem enter_err (st : FsmState) (s : State) : (enter st s).err = s.err := by
  unfold enter; split <;> [rfl; (split <;> rfl)]
@[simp] theorem enter_frame (st : FsmState) (s : State) : (enter st s).frame = s.frame := by
  unfold enter; split <;> [rfl; (split <;> rfl)]
@[simp] theorem enter_rawh (st : FsmState) (s : State) : (enter st s).rawh = s.rawh := by
  unfold enter; split <;> [rfl; (split <;> rfl)]
@[simp] theorem enter_rawt (st : FsmState) (s : State) : (enter st s).rawt = s.rawt := by
  unfold enter; split <;> [rfl; (split <;> rfl)]
@[simp] theorem enter_temp (st : FsmState) (s : State) : (enter st s).temp = s.temp := by
  unfold enter; split <;> [rfl; (split <;> rfl)]
@[simp] theorem enter_hum (st : FsmState) (s : State) : (enter st s).hum = s.hum := by
  unfold enter; split <;> [rfl; (split <;> rfl)]
@[simp] theorem enter_hi (st : FsmState) (s : State) : (enter st s).hi = s.hi := by
  unfold enter; split <;> [rfl; (split <;> rfl)]
@[simp] theorem enter_band (st : FsmState) (s : State) : (enter st s).band = s.band := by
  unfold enter; split <;> [rfl; (split <;> rfl)]
@[simp] theorem enter_turns (st : FsmState) (s : State) : (enter st s).turns = s.turns := by
  unfold enter; split <;> [rfl; (split <;> rfl)]
@[simp] theorem enter_host (st : FsmState) (s : State) : (enter st s).host = s.host := by
  unfold enter; split <;> [rfl; (split <;> rfl)]
@[simp] theorem enter_sensor (st : FsmState) (s : State) : (enter st s).sensor = s.sensor := by
  unfold enter; split <;> [rfl; (split <;> rfl)]
@[simp] theorem enter_drawn (st : FsmState) (s : State) : (enter st s).drawn = s.drawn := by
  unfold enter; split <;> [rfl; (split <;> rfl)]
@[simp] theorem enter_busHung (st : FsmState) (s : State) : (enter st s).busHung = s.busHung := by
  unfold enter; split <;> [rfl; (split <;> rfl)]
@[simp] theorem enter_tmrHung (st : FsmState) (s : State) : (enter st s).tmrHung = s.tmrHung := by
  unfold enter; split <;> [rfl; (split <;> rfl)]

@[simp] theorem enter_state (st : FsmState) (s : State) : (enter st s).state = st := by
  unfold enter; split <;> [(rename_i h; exact h.symm); (split <;> rfl)]

@[simp] theorem enter_cpl (st : FsmState) (s : State) : (enter st s).cpl = none := by
  unfold enter; split <;> [rfl; (split <;> rfl)]

/-- R33, R78: after an entry, `req` is the request of the state entered. -/
@[simp] theorem enter_req (st : FsmState) (s : State) : (enter st s).req = reqOf st := by
  unfold enter
  split
  · rename_i h; subst h; rfl
  · split <;> simp_all

/-- R78: `DONE` is set on entry to IDLE and left alone otherwise. -/
@[simp] theorem enter_done (st : FsmState) (s : State) :
    (enter st s).done = if st = .idle then true else s.done := by
  unfold enter; split <;> [rfl; (split <;> rfl)]

/-- R78: an entry records one `Issue` event for a request state, and nothing otherwise. -/
@[simp] theorem enter_trace (st : FsmState) (s : State) :
    (enter st s).trace = s.trace ++ (match reqOf st with | some r => [.issue r] | none => []) := by
  unfold enter
  split
  · rename_i h; subst h; simp [reqOf]
  · split <;> simp_all

@[simp] theorem readEffect_state (st : FsmState) (d : Byte) (s : State) : (readEffect st d s).state = s.state := by
  cases st <;> rfl
@[simp] theorem readEffect_cmd (st : FsmState) (d : Byte) (s : State) : (readEffect st d s).cmd = s.cmd := by
  cases st <;> rfl
@[simp] theorem readEffect_initd (st : FsmState) (d : Byte) (s : State) : (readEffect st d s).initd = s.initd := by
  cases st <;> rfl
@[simp] theorem readEffect_done (st : FsmState) (d : Byte) (s : State) : (readEffect st d s).done = s.done := by
  cases st <;> rfl
@[simp] theorem readEffect_req (st : FsmState) (d : Byte) (s : State) : (readEffect st d s).req = s.req := by
  cases st <;> rfl
@[simp] theorem readEffect_cpl (st : FsmState) (d : Byte) (s : State) : (readEffect st d s).cpl = s.cpl := by
  cases st <;> rfl
@[simp] theorem readEffect_err (st : FsmState) (d : Byte) (s : State) : (readEffect st d s).err = s.err := by
  cases st <;> rfl
@[simp] theorem readEffect_rawh (st : FsmState) (d : Byte) (s : State) : (readEffect st d s).rawh = s.rawh := by
  cases st <;> rfl
@[simp] theorem readEffect_rawt (st : FsmState) (d : Byte) (s : State) : (readEffect st d s).rawt = s.rawt := by
  cases st <;> rfl
@[simp] theorem readEffect_temp (st : FsmState) (d : Byte) (s : State) : (readEffect st d s).temp = s.temp := by
  cases st <;> rfl
@[simp] theorem readEffect_hum (st : FsmState) (d : Byte) (s : State) : (readEffect st d s).hum = s.hum := by
  cases st <;> rfl
@[simp] theorem readEffect_hi (st : FsmState) (d : Byte) (s : State) : (readEffect st d s).hi = s.hi := by
  cases st <;> rfl
@[simp] theorem readEffect_band (st : FsmState) (d : Byte) (s : State) : (readEffect st d s).band = s.band := by
  cases st <;> rfl
@[simp] theorem readEffect_trace (st : FsmState) (d : Byte) (s : State) : (readEffect st d s).trace = s.trace := by
  cases st <;> rfl
@[simp] theorem readEffect_turns (st : FsmState) (d : Byte) (s : State) : (readEffect st d s).turns = s.turns := by
  cases st <;> rfl
@[simp] theorem readEffect_host (st : FsmState) (d : Byte) (s : State) : (readEffect st d s).host = s.host := by
  cases st <;> rfl
@[simp] theorem readEffect_sensor (st : FsmState) (d : Byte) (s : State) : (readEffect st d s).sensor = s.sensor := by
  cases st <;> rfl
@[simp] theorem readEffect_drawn (st : FsmState) (d : Byte) (s : State) : (readEffect st d s).drawn = s.drawn := by
  cases st <;> rfl
@[simp] theorem readEffect_busHung (st : FsmState) (d : Byte) (s : State) : (readEffect st d s).busHung = s.busHung := by
  cases st <;> rfl
@[simp] theorem readEffect_tmrHung (st : FsmState) (d : Byte) (s : State) : (readEffect st d s).tmrHung = s.tmrHung := by
  cases st <;> rfl

@[simp] theorem drawByte_state (s : State) : (drawByte s).2.state = s.state := by
  unfold drawByte; split <;> rfl
@[simp] theorem drawByte_cmd (s : State) : (drawByte s).2.cmd = s.cmd := by
  unfold drawByte; split <;> rfl
@[simp] theorem drawByte_initd (s : State) : (drawByte s).2.initd = s.initd := by
  unfold drawByte; split <;> rfl
@[simp] theorem drawByte_done (s : State) : (drawByte s).2.done = s.done := by
  unfold drawByte; split <;> rfl
@[simp] theorem drawByte_req (s : State) : (drawByte s).2.req = s.req := by
  unfold drawByte; split <;> rfl
@[simp] theorem drawByte_cpl (s : State) : (drawByte s).2.cpl = s.cpl := by
  unfold drawByte; split <;> rfl
@[simp] theorem drawByte_err (s : State) : (drawByte s).2.err = s.err := by
  unfold drawByte; split <;> rfl
@[simp] theorem drawByte_frame (s : State) : (drawByte s).2.frame = s.frame := by
  unfold drawByte; split <;> rfl
@[simp] theorem drawByte_rawh (s : State) : (drawByte s).2.rawh = s.rawh := by
  unfold drawByte; split <;> rfl
@[simp] theorem drawByte_rawt (s : State) : (drawByte s).2.rawt = s.rawt := by
  unfold drawByte; split <;> rfl
@[simp] theorem drawByte_temp (s : State) : (drawByte s).2.temp = s.temp := by
  unfold drawByte; split <;> rfl
@[simp] theorem drawByte_hum (s : State) : (drawByte s).2.hum = s.hum := by
  unfold drawByte; split <;> rfl
@[simp] theorem drawByte_hi (s : State) : (drawByte s).2.hi = s.hi := by
  unfold drawByte; split <;> rfl
@[simp] theorem drawByte_band (s : State) : (drawByte s).2.band = s.band := by
  unfold drawByte; split <;> rfl
@[simp] theorem drawByte_trace (s : State) : (drawByte s).2.trace = s.trace := by
  unfold drawByte; split <;> rfl
@[simp] theorem drawByte_turns (s : State) : (drawByte s).2.turns = s.turns := by
  unfold drawByte; split <;> rfl
@[simp] theorem drawByte_host (s : State) : (drawByte s).2.host = s.host := by
  unfold drawByte; split <;> rfl

end Sys2Proof.Machine
end

