-- ==== Sys2Proof/Laws/Ops.lean ====
section
/-! SUPPORT. What each shared operation can do, said once: a command issue, a data write, a host write, a provider
completion; and what the bus and delay words decode to. -/

namespace Sys2Proof.Machine

/-- R66: the five ways a command issue can end. -/
theorem commandIssue_cases (c : BitVec 3) (s : State) :
    (c = 0#3 ∧ commandIssue c s = s)
    ∨ (c ≠ 0#3 ∧ s.state ≠ .idle ∧ commandIssue c s = raiseError .ovr s)
    ∨ (c = 7#3 ∧ s.state = .idle ∧ commandIssue c s = raiseError .rsv s)
    ∨ (s.state = .idle ∧ (((c = 2#3 ∨ c = 6#3) ∧ s.initd = false) ∨ (c = 1#3 ∧ s.initd = true))
        ∧ commandIssue c s = raiseError .pre s)
    ∨ (c ≠ 0#3 ∧ c ≠ 7#3 ∧ s.state = .idle ∧ ((c = 2#3 ∨ c = 6#3) → s.initd = true) ∧ (c = 1#3 → s.initd = false)
        ∧ commandIssue c s = accept c s) := by
  unfold commandIssue
  split
  · exact .inl ⟨‹_›, rfl⟩
  split
  · exact .inr (.inl ⟨‹_›, ‹_›, rfl⟩)
  have hi : s.state = .idle := Decidable.not_not.mp ‹_›
  split
  · exact .inr (.inr (.inl ⟨‹_›, hi, rfl⟩))
  split
  · exact .inr (.inr (.inr (.inl ⟨hi, .inl ‹_›, rfl⟩)))
  split
  · exact .inr (.inr (.inr (.inl ⟨hi, .inr ‹_›, rfl⟩)))
  · exact .inr (.inr (.inr (.inr ⟨‹_›, ‹_›, hi, by simp_all, by simp_all, rfl⟩)))

/-- R41, R121: a data write is dropped with `OVR` while busy, and performed while idle. -/
theorem dataWrite_cases (f : State → State) (s : State) :
    (s.state ≠ .idle ∧ dataWrite f s = raiseError .ovr s) ∨ (s.state = .idle ∧ dataWrite f s = f s) := by
  unfold dataWrite
  split
  · exact .inl ⟨‹_›, rfl⟩
  · exact .inr ⟨Decidable.not_not.mp ‹_›, rfl⟩

/-- R41: what a host write does after its event is recorded. -/
theorem hostWriteEffect_cases (off : BitVec 8) (v : Word) (s : State) :
    (off = 0x00#8 ∧ hostWriteEffect off v s = commandIssue (cmdField v) s)
    ∨ ((off = 0x0C#8 ∨ off = 0x10#8 ∨ off = 0x24#8) ∧ s.state ≠ .idle
        ∧ hostWriteEffect off v s = raiseError .ovr s)
    ∨ (off = 0x0C#8 ∧ s.state = .idle ∧ hostWriteEffect off v s = { s with frame := s.frame.setWord0 v })
    ∨ (off = 0x10#8 ∧ s.state = .idle ∧ hostWriteEffect off v s = { s with frame := s.frame.setWord1 v })
    ∨ (off = 0x24#8 ∧ s.state = .idle ∧ hostWriteEffect off v s = { s with hi := v })
    ∨ (off ≠ 0x00#8 ∧ off ≠ 0x0C#8 ∧ off ≠ 0x10#8 ∧ off ≠ 0x24#8 ∧ hostWriteEffect off v s = s) := by
  unfold hostWriteEffect
  split
  · exact .inl ⟨rfl, rfl⟩
  · rcases dataWrite_cases (fun s => { s with frame := s.frame.setWord0 v }) s with ⟨h, e⟩ | ⟨h, e⟩
    · exact .inr (.inl ⟨.inl rfl, h, e⟩)
    · exact .inr (.inr (.inl ⟨rfl, h, e⟩))
  · rcases dataWrite_cases (fun s => { s with frame := s.frame.setWord1 v }) s with ⟨h, e⟩ | ⟨h, e⟩
    · exact .inr (.inl ⟨.inr (.inl rfl), h, e⟩)
    · exact .inr (.inr (.inr (.inl ⟨rfl, h, e⟩)))
  · rcases dataWrite_cases (fun s => { s with hi := v }) s with ⟨h, e⟩ | ⟨h, e⟩
    · exact .inr (.inl ⟨.inr (.inr rfl), h, e⟩)
    · exact .inr (.inr (.inr (.inr (.inl ⟨rfl, h, e⟩))))
  · rename_i h0 h1 h2 h3
    exact .inr (.inr (.inr (.inr (.inr ⟨h0, h1, h2, h3, rfl⟩))))

/-- R84: a READ draws the next byte laid down, or a free one. -/
theorem drawByte_cases (s : State) :
    (∃ d rest, s.sensor = d :: rest ∧ drawByte s = (d, { s with sensor := rest }))
    ∨ (s.sensor = [] ∧ drawByte s = (Config.freeByte s.drawn, { s with drawn := s.drawn + 1 })) := by
  unfold drawByte
  split
  · exact .inl ⟨_, _, ‹_›, rfl⟩
  · exact .inr ⟨‹_›, rfl⟩

/-- R84, R85: completing the outstanding request. -/
theorem completePlain_of_awaits {r : Request} {s : State} (h : awaits r s) : completePlain r s = complete r 0#8 s :=
  if_pos h

theorem completeRead_of_awaits {r : Request} {s : State} (h : awaits r s) :
    completeRead r s = complete r (drawByte s).1 (drawByte s).2 := if_pos h

/-- R136: a completion of a request that is not outstanding is ignored. -/
theorem completePlain_of_not {r : Request} {s : State} (h : ¬ awaits r s) : completePlain r s = s := if_neg h

theorem completeRead_of_not {r : Request} {s : State} (h : ¬ awaits r s) : completeRead r s = s := if_neg h

/-- R56, R58: a bus request's word decodes, if at all, to the operation that completes that very request. -/
theorem exec_of_busop {op : BitVec 3} {arg : Byte} {ack : Bool} {i : Instr} (s : State)
    (h : decode (.busop (busopWord op arg ack)) = .ok i) :
    exec i s = .next (if op = 5#3 then completeRead (.bus op arg ack) s else completePlain (.bus op arg ack) s) := by
  simp only [decode, decodeBusop, busopWord_op, busopWord_arg, busopWord_ack] at h
  split at h
  · split at h <;> cases h
    rename_i h0 h1; obtain ⟨rfl, rfl⟩ := h1; subst h0; rfl
  split at h
  · split at h <;> cases h
    rename_i h0 h1; obtain ⟨rfl, rfl⟩ := h1; subst h0; rfl
  split at h
  · split at h <;> cases h
    rename_i h0 h1; obtain ⟨h1, rfl⟩ := h1; subst h0
    simp [exec, execAddrW, reqAddrW, arg_of_addr arg h1]
  split at h
  · split at h <;> cases h
    rename_i h0 h1; obtain ⟨h1, rfl⟩ := h1; subst h0
    simp [exec, execAddrR, reqAddrR, arg_of_addr arg h1]
  split at h
  · split at h <;> cases h
    rename_i h0 h1; subst h0; subst h1; rfl
  split at h
  · split at h <;> cases h
    rename_i h0 h1; subst h0; subst h1
    cases ack <;> rfl
  · cases h

/-- R56, R60: a host access at the port decodes to a read or a write of a word offset. -/
theorem decode_hostacc (w : BitVec 39) :
    ∃ off v, wordAligned off = true ∧ (decode (.hostacc w) = .ok (.hostRead off v) ∨ decode (.hostacc w) = .ok (.hostWrite off v)) := by
  refine ⟨w.extractLsb' 32 6 ++ 0#2, w.extractLsb' 0 32, wordAligned_index _, ?_⟩
  cases h : w.getLsbD 38
  · exact .inl (by simp only [decode, decodeHostacc, h]; rfl)
  · exact .inr (by simp only [decode, decodeHostacc, h]; rfl)

/-- R57: a command's word decodes to an instruction whose run is the write of that word to `CTRL`. -/
theorem exec_of_ctrl (w : Word) (s : State) : exec (decodeCtrl w) s = .next (ctrlWrite w s) := by
  have hw : ∀ c : BitVec 3, w.extractLsb' 0 3 = c → ctrlWord (w.extractLsb' 3 29) c = w := by
    rintro c rfl
    exact ctrlWord_fields w
  unfold decodeCtrl
  have hall : ∀ c : BitVec 3, c = 0#3 ∨ c = 1#3 ∨ c = 2#3 ∨ c = 3#3 ∨ c = 4#3 ∨ c = 5#3 ∨ c = 6#3 ∨ c = 7#3 := by decide
  rcases hall (w.extractLsb' 0 3) with h | h | h | h | h | h | h | h <;>
    · have e := hw _ h
      simp only [h]
      simp [exec, execNop, execInit, execReadRaw, execDecode, execDerive, execClassify, execMeasure, execReserved, e]

end Sys2Proof.Machine
end

