-- ==== Sys2Proof/Laws/PerInstr.lean ====
section
/-! SUPPORT. One family of statements about every instruction as syntax. -/

namespace Sys2Proof.Laws.WordIsAccepted

/-- The word of an instruction, well-formed or not, is accepted, and as a well-formed instruction of its own format. -/
def Statement (i : Instr) : Prop := ∃ j, Sys2Proof.decode (encode i) = .ok j ∧ j.wf = true

theorem nop (ign : BitVec 29) : Statement (.nop ign) := ⟨.nop ign, by simp [encode, Sys2Proof.decode, decodeCtrl], rfl⟩

theorem init (ign : BitVec 29) : Statement (.init ign) := ⟨.init ign, by simp [encode, Sys2Proof.decode, decodeCtrl], rfl⟩

theorem readRaw (ign : BitVec 29) : Statement (.readRaw ign) := ⟨.readRaw ign, by simp [encode, Sys2Proof.decode, decodeCtrl], rfl⟩

theorem decode (ign : BitVec 29) : Statement (.decode ign) := ⟨.decode ign, by simp [encode, Sys2Proof.decode, decodeCtrl], rfl⟩

theorem derive (ign : BitVec 29) : Statement (.derive ign) := ⟨.derive ign, by simp [encode, Sys2Proof.decode, decodeCtrl], rfl⟩

theorem classify (ign : BitVec 29) : Statement (.classify ign) := ⟨.classify ign, by simp [encode, Sys2Proof.decode, decodeCtrl], rfl⟩

theorem measure (ign : BitVec 29) : Statement (.measure ign) := ⟨.measure ign, by simp [encode, Sys2Proof.decode, decodeCtrl], rfl⟩

theorem reserved (ign : BitVec 29) : Statement (.reserved ign) := ⟨.reserved ign, by simp [encode, Sys2Proof.decode, decodeCtrl], rfl⟩

theorem start : Statement .start := ⟨.start, by simp [encode, Sys2Proof.decode, decodeBusop], rfl⟩

theorem stop : Statement .stop := ⟨.stop, by simp [encode, Sys2Proof.decode, decodeBusop], rfl⟩

theorem addrW (addr : BitVec 7) : Statement (.addrW addr) := ⟨.addrW addr, by simp [encode, Sys2Proof.decode, decodeBusop], rfl⟩

theorem addrR (addr : BitVec 7) : Statement (.addrR addr) := ⟨.addrR addr, by simp [encode, Sys2Proof.decode, decodeBusop], rfl⟩

theorem write (b : Byte) : Statement (.write b) := ⟨.write b, by simp [encode, Sys2Proof.decode, decodeBusop], rfl⟩

theorem readAck : Statement .readAck := ⟨.readAck, by simp [encode, Sys2Proof.decode, decodeBusop], rfl⟩

theorem readNak : Statement .readNak := ⟨.readNak, by simp [encode, Sys2Proof.decode, decodeBusop], rfl⟩

theorem delay (n : BitVec 17) : Statement (.delay n) := ⟨.delay n, rfl, rfl⟩

theorem hostRead (off : BitVec 8) (lanes : Word) : Statement (.hostRead off lanes) := by
  obtain ⟨o, w, h, hd⟩ := Machine.decode_hostacc (hostaccWord false off lanes)
  rcases hd with hd | hd
  · exact ⟨_, hd, h⟩
  · exact ⟨_, hd, h⟩

theorem hostWrite (off : BitVec 8) (v : Word) : Statement (.hostWrite off v) := by
  obtain ⟨o, w, h, hd⟩ := Machine.decode_hostacc (hostaccWord true off v)
  rcases hd with hd | hd
  · exact ⟨_, hd, h⟩
  · exact ⟨_, hd, h⟩

theorem dec : Statement .dec := ⟨.dec, by decide, rfl⟩

theorem hic : Statement .hic := ⟨.hic, by decide, rfl⟩

theorem cls : Statement .cls := ⟨.cls, by decide, rfl⟩

end Sys2Proof.Laws.WordIsAccepted
end

