-- ==== Sys2Proof/Laws/Step.lean ====
section
/-! SUPPORT. What one turn, and so one step, can do, said once: every next state is one of the shapes of `Moved`. -/

namespace Sys2Proof.Machine

/-- The shapes of a next state, by who moved (R40, R41, R80, R82, R84, R85, R86, R136). -/
inductive Moved (s : State) : Turn → State → Prop where
  /-- The agent is not enabled: it has no step and the block holds. -/
  | hold (t : Turn) : Moved s t s
  /-- A host read (R40). -/
  | read (h : List HostOp) (off : BitVec 8) : Moved s .host (logEvent (.hostRead off (regView { s with host := h } off)) { s with host := h })
  /-- A host write (R41). -/
  | wrote (h : List HostOp) (off : BitVec 8) (v : Word) (ha : wordAligned off = true) :
      Moved s .host (hostWriteEffect off v (logEvent (.hostWrite off v) { s with host := h }))
  /-- A bus completion (R84). -/
  | bus (op : BitVec 3) (arg : Byte) (ack : Bool) (hh : s.busHung = false) (hr : s.req = some (.bus op arg ack)) (hc : s.cpl = none) :
      Moved s .bus (if op = 5#3 then complete (.bus op arg ack) (drawByte s).1 (drawByte s).2
        else complete (.bus op arg ack) 0#8 s)
  /-- A delay completion (R85). -/
  | tmr (n : BitVec 17) (hh : s.tmrHung = false) (hr : s.req = some (.delay n)) (hc : s.cpl = none) : Moved s .tmr (complete (.delay n) 0#8 s)
  /-- The FSM consumes a completion (R80). -/
  | consume (d : Byte) (hc : s.cpl = some d) (h0 : s.state ≠ .idle) (h1 : s.state ≠ .dec) (h2 : s.state ≠ .hic)
      (h3 : s.state ≠ .cls) (h4 : ∀ k, s.state ≠ .unused k) : Moved s .fsm (fsmReqStep d s)
  /-- The three datapath operations (R82). -/
  | dec (h : s.state = .dec) : Moved s .fsm (enter (nextState .dec s.cmd) (decodeFrame s))
  | hic (h : s.state = .hic) : Moved s .fsm (enter .cls (writeHeatIndex Config.hiPoly s))
  | cls (h : s.state = .cls) : Moved s .fsm (enter .idle (writeBand s))
  /-- The reset input (R135, R136). -/
  | reset : Moved s .reset (resetBlock s)
  /-- A provider hangs (R86). -/
  | busHang : Moved s .busHang { s with busHung := true }
  | tmrHang : Moved s .tmrHang { s with tmrHung := true }

theorem ctrlWrite_eq (v : Word) (s : State) :
    ctrlWrite v s = hostWriteEffect 0x00#8 v (logEvent (.hostWrite 0x00#8 v) s) := rfl

/-- A host access at the port is one of the two host shapes. -/
theorem runFetched_hostacc {w : BitVec 39} {s : State} {h : List HostOp} {t : State}
    (e : runFetched (.hostacc w) { s with host := h } = .next t) : Moved s .host t := by
  obtain ⟨off, v, ha, hd | hd⟩ := decode_hostacc w
  · simp only [runFetched, hd, exec, execHostRead, ha, if_true] at e
    cases e; exact .read h off
  · simp only [runFetched, hd, exec, execHostWrite, ha, if_true] at e
    cases e; exact .wrote h off v ha

theorem hostTurn_moved {s t : State} (e : hostTurn s = .next t) : Moved s .host t := by
  unfold hostTurn at e
  split at e
  · cases e; exact .hold _
  rename_i op rest hop
  split at e
  · cases e
  rename_i d hd
  obtain ⟨h, hh⟩ : ∃ h, (if op.finished s = true then { s with host := rest } else s) = { s with host := h } := by
    split
    · exact ⟨_, rfl⟩
    · exact ⟨s.host, rfl⟩
  rw [hh] at e
  cases op with
  | command w =>
    cases hd
    have := exec_of_ctrl w { s with host := h }
    simp only [runFetched, decode, this] at e
    cases e; exact .wrote h 0x00#8 w rfl
  | access w => cases hd; exact runFetched_hostacc e
  | memRead a n =>
    simp only [HostOp.datum] at hd
    split at hd <;> cases hd
    exact runFetched_hostacc e
  | memWrite a n v =>
    simp only [HostOp.datum] at hd
    split at hd <;> cases hd
    exact runFetched_hostacc e
  | poll off m v =>
    simp only [HostOp.datum] at hd
    split at hd <;> cases hd
    exact runFetched_hostacc e

theorem busTurn_moved {s t : State} (e : busTurn s = .next t) : Moved s .bus t := by
  unfold busTurn at e
  split at e
  · cases e; exact .hold _
  rename_i hh
  have hh := Bool.not_eq_true _ ▸ hh
  split at e
  · rename_i op arg ack hr hc
    simp only [runFetched, Request.datum] at e
    split at e
    · rename_i i hi
      rw [exec_of_busop s hi] at e
      have ha : awaits (.bus op arg ack) s := ⟨hr, hc⟩
      rw [completeRead_of_awaits ha, completePlain_of_awaits ha] at e
      cases e; exact .bus op arg ack hh hr hc
    · cases e
  · cases e; exact .hold _

theorem tmrTurn_moved {s t : State} (e : tmrTurn s = .next t) : Moved s .tmr t := by
  unfold tmrTurn at e
  split at e
  · cases e; exact .hold _
  rename_i hh
  have hh := Bool.not_eq_true _ ▸ hh
  split at e
  · rename_i n hr hc
    simp only [runFetched, Request.datum, decode, exec, execDelay, completePlain_of_awaits ⟨hr, hc⟩] at e
    cases e; exact .tmr n hh hr hc
  · cases e; exact .hold _

theorem fsmTurn_moved {s t : State} (e : fsmTurn s = .next t) : Moved s .fsm t := by
  unfold fsmTurn at e
  split at e
  · cases e; exact .hold _
  · cases e
  · rename_i h; rw [h] at e; cases e; exact .dec h
  · rename_i h; rw [h] at e; cases e; exact .hic h
  · rename_i h; rw [h] at e; cases e; exact .cls h
  · rename_i h0 h4 h1 h2 h3
    split at e
    · rename_i d hc; cases e; exact .consume d hc h0 h1 h2 h3 h4
    · cases e; exact .hold _

/-- Everything one turn can do. -/
theorem takeTurn_moved {t : Turn} {s s' : State} (e : takeTurn t s = .next s') : Moved s t s' := by
  cases t with
  | host => exact hostTurn_moved e
  | fsm => exact fsmTurn_moved e
  | bus => exact busTurn_moved e
  | tmr => exact tmrTurn_moved e
  | reset => cases e; exact .reset
  | busHang => cases e; exact .busHang
  | tmrHang => cases e; exact .tmrHang

/-- Taking a turn off the schedule changes none of the block's elements. -/
theorem popTurn_eq (s : State) : ∃ ts n, (popTurn s).2 = { s with turns := ts, drawn := n } := by
  unfold popTurn
  split
  · exact ⟨_, s.drawn, rfl⟩
  · exact ⟨s.turns, _, rfl⟩

@[simp] theorem popTurn_state (s : State) : (popTurn s).2.state = s.state := by
  unfold popTurn; split <;> rfl
@[simp] theorem popTurn_cmd (s : State) : (popTurn s).2.cmd = s.cmd := by
  unfold popTurn; split <;> rfl
@[simp] theorem popTurn_initd (s : State) : (popTurn s).2.initd = s.initd := by
  unfold popTurn; split <;> rfl
@[simp] theorem popTurn_done (s : State) : (popTurn s).2.done = s.done := by
  unfold popTurn; split <;> rfl
@[simp] theorem popTurn_req (s : State) : (popTurn s).2.req = s.req := by
  unfold popTurn; split <;> rfl
@[simp] theorem popTurn_cpl (s : State) : (popTurn s).2.cpl = s.cpl := by
  unfold popTurn; split <;> rfl
@[simp] theorem popTurn_err (s : State) : (popTurn s).2.err = s.err := by
  unfold popTurn; split <;> rfl
@[simp] theorem popTurn_frame (s : State) : (popTurn s).2.frame = s.frame := by
  unfold popTurn; split <;> rfl
@[simp] theorem popTurn_rawh (s : State) : (popTurn s).2.rawh = s.rawh := by
  unfold popTurn; split <;> rfl
@[simp] theorem popTurn_rawt (s : State) : (popTurn s).2.rawt = s.rawt := by
  unfold popTurn; split <;> rfl
@[simp] theorem popTurn_temp (s : State) : (popTurn s).2.temp = s.temp := by
  unfold popTurn; split <;> rfl
@[simp] theorem popTurn_hum (s : State) : (popTurn s).2.hum = s.hum := by
  unfold popTurn; split <;> rfl
@[simp] theorem popTurn_hi (s : State) : (popTurn s).2.hi = s.hi := by
  unfold popTurn; split <;> rfl
@[simp] theorem popTurn_band (s : State) : (popTurn s).2.band = s.band := by
  unfold popTurn; split <;> rfl
@[simp] theorem popTurn_trace (s : State) : (popTurn s).2.trace = s.trace := by
  unfold popTurn; split <;> rfl
@[simp] theorem popTurn_host (s : State) : (popTurn s).2.host = s.host := by
  unfold popTurn; split <;> rfl
@[simp] theorem popTurn_sensor (s : State) : (popTurn s).2.sensor = s.sensor := by
  unfold popTurn; split <;> rfl
@[simp] theorem popTurn_busHung (s : State) : (popTurn s).2.busHung = s.busHung := by
  unfold popTurn; split <;> rfl
@[simp] theorem popTurn_tmrHung (s : State) : (popTurn s).2.tmrHung = s.tmrHung := by
  unfold popTurn; split <;> rfl

/-- What a step can do, over the agent whose turn it is and the state with that turn taken. -/
theorem step_moved_popTurn {s t : State} (e : step s = .next t) : Moved (popTurn s).2 (popTurn s).1 t := takeTurn_moved e

/-- Everything one step can do: a turn, from the same block with the schedule advanced. -/
theorem step_moved {s s' : State} (e : step s = .next s') :
    ∃ ts n, Moved { s with turns := ts, drawn := n } (popTurn s).1 s' := by
  obtain ⟨ts, n, h⟩ := popTurn_eq s
  have := takeTurn_moved e
  rw [h] at this
  exact ⟨ts, n, this⟩

end Sys2Proof.Machine
end

