-- ==== Sys2Proof/Laws/Turns.lean ====
section
/-! SUPPORT. What an enabled agent's turn answers, and that the other turns hold; the turn a schedule gives. -/

namespace Sys2Proof.Machine

/-- The next turn laid down is taken. -/
theorem step_of_turns {s : State} {a : Turn} {ts : List Turn} (h : s.turns = a :: ts) :
    step s = takeTurn a { s with turns := ts } := by
  simp only [step, popTurn, h]

/-- The same, as what the step can do. -/
theorem step_moved_of_turns {s t : State} {a : Turn} {ts : List Turn} (h : s.turns = a :: ts) (e : step s = .next t) :
    Moved { s with turns := ts } a t := takeTurn_moved (by rw [← step_of_turns h]; exact e)

/-- R29, R58: every bus request the FSM issues is a row of the table. -/
theorem decode_reqOf {st : FsmState} {op : BitVec 3} {arg : Byte} {ack : Bool}
    (h : reqOf st = some (.bus op arg ack)) : ∃ i, decode (.busop (busopWord op arg ack)) = .ok i := by
  cases st <;> simp only [reqOf, reqStart, reqStop, reqAddrW, reqAddrR, reqWrite, reqRead, Option.some.injEq,
    Request.bus.injEq, reduceCtorEq] at h <;> obtain ⟨rfl, rfl, rfl⟩ := h <;> simp [decode, decodeBusop]

/-- R84: the BUS agent completes a request the FSM has issued. -/
theorem busTurn_issued {s : State} {st : FsmState} {op : BitVec 3} {arg : Byte} {ack : Bool}
    (h : reqOf st = some (.bus op arg ack)) (hr : s.req = some (.bus op arg ack)) (hc : s.cpl = none) (hh : s.busHung = false) :
    busTurn s = .next (if op = 5#3 then complete (.bus op arg ack) (drawByte s).1 (drawByte s).2
      else complete (.bus op arg ack) 0#8 s) := by
  obtain ⟨i, hi⟩ := decode_reqOf h
  have ha : awaits (.bus op arg ack) s := ⟨hr, hc⟩
  simp only [busTurn, hh, Bool.false_eq_true, if_false, hr, hc, runFetched, Request.datum, hi]
  rw [exec_of_busop s hi, completeRead_of_awaits ha, completePlain_of_awaits ha]

/-- R85: the TMR agent completes a delay. -/
theorem tmrTurn_issued {s : State} {n : BitVec 17} (hr : s.req = some (.delay n)) (hc : s.cpl = none)
    (hh : s.tmrHung = false) :
    tmrTurn s = .next (complete (.delay n) 0#8 s) := by
  simp only [tmrTurn, hh, Bool.false_eq_true, if_false, hr, hc, runFetched, Request.datum, decode, exec, execDelay, completePlain_of_awaits ⟨hr, hc⟩]

/-- R86: a hung provider's turn changes nothing. -/
theorem busTurn_hung {s : State} (hh : s.busHung = true) : busTurn s = .next s := if_pos hh

theorem tmrTurn_hung {s : State} (hh : s.tmrHung = true) : tmrTurn s = .next s := if_pos hh

/-- R80: in a request state the FSM consumes a completion. -/
theorem fsmTurn_consumes {s : State} {r : Request} {d : Byte} (h : reqOf s.state = some r) (hc : s.cpl = some d) :
    fsmTurn s = .next (fsmReqStep d s) := by
  unfold fsmTurn
  split <;> simp_all [reqOf]

/-- R80: in a request state without a completion the FSM holds. -/
theorem fsmTurn_waits {s : State} {r : Request} (h : reqOf s.state = some r) (hc : s.cpl = none) :
    fsmTurn s = .next s := by
  unfold fsmTurn
  split <;> simp_all [reqOf]

/-- The history's requests, read in two parts. -/
theorem issues_append (a b : List Event) : issues (a ++ b) = issues a ++ issues b := by
  induction a with
  | nil => rfl
  | cons e es ih => cases e <;> simp [issues, ih]

end Sys2Proof.Machine
end

