-- ==== Sys2Proof/Laws/Rounds.lean ====
section
/-! SUPPORT. A run in rounds: one provider completion, then the FSM's step that consumes it. -/

namespace Sys2Proof.Machine

theorem runSteps_succ {s t : State} (n : Nat) (h : step s = .next t) : runSteps (n + 1) s = runSteps n t := by
  simp only [runSteps, h]

/-- R81: the bytes of a completion reach the frame only in the read states. -/
theorem readEffect_of_notRead {st : FsmState} {r : Request} (h : reqOf st = some r) (h5 : ∀ ack, r ≠ reqRead ack)
    (d : Byte) (s : State) : readEffect st d s = s := by
  cases st <;> simp_all [readEffect, reqOf]

/-- R80, R84: a round of a bus operation other than READ. -/
theorem runSteps_busRound {s : State} {ts : List Turn} {op : BitVec 3} {arg : Byte} {ack : Bool} (n : Nat)
    (ht : s.turns = .bus :: .fsm :: ts) (h : reqOf s.state = some (.bus op arg ack))
    (hr : s.req = some (.bus op arg ack)) (hc : s.cpl = none) (hh : s.busHung = false) (h5 : op ≠ 5#3) :
    runSteps (n + 2) s = runSteps n (enter (nextState s.state s.cmd)
      { s with turns := ts, cpl := some 0#8, trace := s.trace ++ [.complete (.bus op arg ack) 0#8] }) := by
  have e1 : step s = .next (complete (.bus op arg ack) 0#8 { s with turns := .fsm :: ts }) := by
    rw [step_of_turns ht]
    exact (busTurn_issued (s := { s with turns := .fsm :: ts }) h hr hc hh).trans (by rw [if_neg h5])
  rw [runSteps_succ _ e1, runSteps_succ n (t := fsmReqStep 0#8 (complete (.bus op arg ack) 0#8 { s with turns := ts }))]
  · simp only [fsmReqStep, complete]
    rw [readEffect_of_notRead h (by intro a e; cases e; exact h5 rfl)]
  · rw [step_of_turns (a := .fsm) (ts := ts) rfl]
    exact fsmTurn_consumes (s := complete (.bus op arg ack) 0#8 { s with turns := ts }) h rfl

/-- R80, R81, R84: a round of a READ whose byte is laid down. -/
theorem runSteps_readRound {s : State} {ts : List Turn} {ack : Bool} {d : Byte} {bs : List Byte} (n : Nat)
    (ht : s.turns = .bus :: .fsm :: ts) (h : reqOf s.state = some (reqRead ack))
    (hr : s.req = some (reqRead ack)) (hc : s.cpl = none) (hh : s.busHung = false) (hd : s.sensor = d :: bs) :
    runSteps (n + 2) s = runSteps n (enter (nextState s.state s.cmd) (readEffect s.state d
      { s with turns := ts, cpl := some d, sensor := bs, trace := s.trace ++ [.complete (reqRead ack) d] })) := by
  have e1 : step s = .next (complete (reqRead ack) d { s with turns := .fsm :: ts, sensor := bs }) := by
    rw [step_of_turns ht]
    refine (busTurn_issued (s := { s with turns := .fsm :: ts }) h hr hc hh).trans ?_
    simp only [if_true, drawByte, hd, reqRead]
  rw [runSteps_succ _ e1, runSteps_succ n (t := fsmReqStep d (complete (reqRead ack) d { s with turns := ts, sensor := bs }))]
  · rfl
  · rw [step_of_turns (a := .fsm) (ts := ts) rfl]
    exact fsmTurn_consumes (s := complete (reqRead ack) d { s with turns := ts, sensor := bs }) h rfl

/-- R80, R85: a round of a delay. -/
theorem runSteps_delayRound {s : State} {ts : List Turn} {k : BitVec 17} (n : Nat)
    (ht : s.turns = .tmr :: .fsm :: ts) (h : reqOf s.state = some (.delay k))
    (hr : s.req = some (.delay k)) (hc : s.cpl = none) (hh : s.tmrHung = false) :
    runSteps (n + 2) s = runSteps n (enter (nextState s.state s.cmd)
      { s with turns := ts, cpl := some 0#8, trace := s.trace ++ [.complete (.delay k) 0#8] }) := by
  have e1 : step s = .next (complete (.delay k) 0#8 { s with turns := .fsm :: ts }) := by
    rw [step_of_turns ht]
    exact tmrTurn_issued (s := { s with turns := .fsm :: ts }) hr hc hh
  rw [runSteps_succ _ e1, runSteps_succ n (t := fsmReqStep 0#8 (complete (.delay k) 0#8 { s with turns := ts }))]
  · simp only [fsmReqStep, complete]
    rw [readEffect_of_notRead h (by intro a e; cases e)]
  · rw [step_of_turns (a := .fsm) (ts := ts) rfl]
    exact fsmTurn_consumes (s := complete (.delay k) 0#8 { s with turns := ts }) h rfl

/-- The host's step with a command next: the write of its word to `CTRL`. -/
theorem step_command {s : State} {ts : List Turn} {w : Word} {hs : List HostOp} (ht : s.turns = .host :: ts)
    (hh : s.host = .command w :: hs) : step s = .next (ctrlWrite w { s with turns := ts, host := hs }) := by
  rw [step_of_turns ht]
  simp only [takeTurn, hostTurn, hh, HostOp.datum, HostOp.finished, if_true, runFetched, decode, exec_of_ctrl]

end Sys2Proof.Machine
end

