-- ==== Sys2Proof/Tests/Slice0.lean ====
section
/-! SUPPORT. Tests: ill-formed terms, words written out from the spec's encodings, the vectors of 95_test_vectors.md, and a
witness for the hypotheses of every statement that has some. Every expected value is the spec's (the vector's number or the
rule stands in the comment). -/

namespace Sys2Proof.Tests

open Sys2Proof.Machine

/-- A test on the next state of a result; false of a refusal. -/
def ran (p : State → Bool) : Result → Bool
  | .next t => p t
  | .fault _ => false
  | .refused _ => false

/-- Reset, bound to a session by an earlier INIT. -/
def bound : State := { State.reset with initd := true }

/-- A block in a request state with its request outstanding. -/
def waiting (cmd : BitVec 3) (st : FsmState) : State := { bound with cmd := cmd, state := st, req := reqOf st }

/-- A block in a datapath state. -/
def inDatapath (cmd : BitVec 3) (st : FsmState) : State := { State.reset with cmd := cmd, state := st }

/-- The frame `19 33 33 35 66 66` of L1.7. -/
def frameL17 : Frame := ⟨0x19#8, 0x33#8, 0x33#8, 0x35#8, 0x66#8, 0x66#8⟩

/-! ## Well-formedness -/

/-- R39: `off mod 4` is 0; each ill-formed offset is refused, and an aligned one is not. -/
theorem test_wf_refuses_misaligned :
    (Instr.hostRead 0x01#8 0#32).wf = false ∧ (Instr.hostRead 0x06#8 0#32).wf = false
      ∧ (Instr.hostWrite 0x27#8 0#32).wf = false ∧ (Instr.hostWrite 0xFE#8 0#32).wf = false
      ∧ (Instr.hostRead 0xFC#8 0#32).wf = true ∧ (Instr.hostWrite 0x24#8 0#32).wf = true := by decide

/-- R36, R59, R61: an address, a byte and a duration the block never issues are not issuable. -/
theorem test_issuable_refuses :
    (Instr.addrW 0x39#7).issuable = false ∧ (Instr.addrR 0x00#7).issuable = false
      ∧ (Instr.write 0x19#8).issuable = false ∧ (Instr.write 0xE1#8).issuable = true
      ∧ (Instr.addrR 0x38#7).issuable = true ∧ Instr.start.issuable = true := by decide

/-! ## Decoding: words written out from R56, R57, R58, R60 and R77 -/

theorem test_decode_ctrl :
    decodeTableWord 32 0b000 = some (.nop 0#29) ∧ decodeTableWord 32 0b001 = some (.init 0#29)
      ∧ decodeTableWord 32 0b010 = some (.readRaw 0#29) ∧ decodeTableWord 32 0b011 = some (.decode 0#29)
      ∧ decodeTableWord 32 0b100 = some (.derive 0#29) ∧ decodeTableWord 32 0b101 = some (.classify 0#29)
      ∧ decodeTableWord 32 0b110 = some (.measure 0#29) ∧ decodeTableWord 32 0b111 = some (.reserved 0#29) := by
  decide +kernel

/-- D-3, and the top ignored bit with each neighbour's code. -/
theorem test_decode_ctrl_ignored_bits :
    decodeTableWord 32 0xFFFFFFF8 = some (.nop 0x1FFFFFFF#29) ∧ decodeTableWord 32 0x80000001 = some (.init 0x10000000#29)
      ∧ decodeTableWord 32 0x0000000E = some (.measure 1#29) := by decide +kernel

/-- The packed column of 95_test_vectors.md 2.2, field by field: `op`, `arg`, `ack`. -/
theorem test_decode_busop :
    decodeTableWord 16 0b000000000000 = some .start ∧ decodeTableWord 16 0b001000000000 = some .stop
      ∧ decodeTableWord 16 0b010001110000 = some (.addrW 0x38#7) ∧ decodeTableWord 16 0b011001110000 = some (.addrR 0x38#7)
      ∧ decodeTableWord 16 0b100111000010 = some (.write 0xE1#8) ∧ decodeTableWord 16 0b100000010000 = some (.write 0x08#8)
      ∧ decodeTableWord 16 0b101000000001 = some .readAck ∧ decodeTableWord 16 0b101000000000 = some .readNak := by
  decide +kernel

/-- R59: `DLYOP` is the number itself. -/
theorem test_decode_dlyop :
    decodeTableWord 24 0x13880 = some (.delay 80000#17) ∧ decodeTableWord 24 0x00014 = some (.delay 20#17)
      ∧ decodeTableWord 24 0x1FFFF = some (.delay 131071#17) ∧ decodeTableWord 24 0x20000 = none := by decide +kernel

/-- The program encodings of 95_test_vectors.md 3: `we`, `off[7:2]`, `data`. -/
theorem test_decode_hostacc :
    decodeTableWord 40 0x4000000006 = some (.hostWrite 0x00#8 6#32) ∧ decodeTableWord 40 0x4306000019 = some (.hostWrite 0x0C#8 0x06000019#32)
      ∧ decodeTableWord 40 0x440000AAAA = some (.hostWrite 0x10#8 0xAAAA#32) ∧ decodeTableWord 40 0x0100000000 = some (.hostRead 0x04#8 0#32)
      ∧ decodeTableWord 40 0x0A00000000 = some (.hostRead 0x28#8 0#32) := by decide +kernel

/-- R29, R77: codes 25, 26, 27; no other code is a row of the table. -/
theorem test_decode_fsmstate :
    decodeTableWord 8 25 = some .dec ∧ decodeTableWord 8 26 = some .hic ∧ decodeTableWord 8 27 = some .cls
      ∧ decodeTableWord 8 24 = none ∧ decodeTableWord 8 28 = none := by decide +kernel

/-- R58, R63: `op` 6 and 7; an `arg` or `ack` an operation does not have. -/
theorem test_decode_rejects_by_name :
    decode (.busop 0b110000000000#12) = .error .busOpcode ∧ decode (.busop 0b111000000000#12) = .error .busOpcode
      ∧ decode (.busop 0b000000000001#12) = .error .busOperand ∧ decode (.busop 0b001000000010#12) = .error .busOperand
      ∧ decode (.busop 0b010100000000#12) = .error .busOperand ∧ decode (.busop 0b100111000011#12) = .error .busOperand
      ∧ decode (.busop 0b101000000010#12) = .error .busOperand ∧ decode (.fsmstate 0#5) = .error .notDatapath := by
  decide +kernel

/-! ## A word placed where its agent fetches it is the next instruction to run -/

/-- From reset: INIT leaves `state` = 1 (D-4), a reserved command leaves `ERR` = 0x34 (D-11), a host read is recorded with
the view (H-8). -/
theorem test_withFetchWord_host :
    ran (fun t => t.state = .iStart) (step (State.reset.withFetchWord 32 0x00000001))
      ∧ ran (fun t => t.err.word = 0x34#32) (step (State.reset.withFetchWord 32 0x00000007))
      ∧ ran (fun t => t.trace = [.hostRead 0x28#8 7#32]) (step (State.reset.withFetchWord 40 0x0A00000000))
      ∧ ran (fun t => t.hi = 0xFFFFFFFF#32) (step (State.reset.withFetchWord 40 0x49FFFFFFFF)) := by decide +kernel

/-- R84, R85, R82: a placed request completes with 0; a placed CLS classifies `HI` = 0 (2.6: band 0). -/
theorem test_withFetchWord_providers_and_fsm :
    ran (fun t => t.cpl = some 0#8) (step (State.reset.withFetchWord 16 0x470))
      ∧ ran (fun t => t.cpl.isSome) (step (State.reset.withFetchWord 16 0xA01))
      ∧ ran (fun t => t.cpl = some 0#8) (step (State.reset.withFetchWord 24 0x13880))
      ∧ ran (fun t => t.band = 0#3 ∧ t.state = .idle) (step (State.reset.withFetchWord 8 27)) := by decide +kernel

/-! ## Commands (95_test_vectors.md 2.1) -/

/-- D-1, D-2, D-3. -/
theorem test_nop :
    ran (fun t => t.err.word = 0#32 ∧ t.state = .idle) (exec (.nop 0#29) State.reset)
      ∧ ran (fun t => t.err.word = 0#32 ∧ t.state = .iCmd0) (exec (.nop 0#29) (waiting 1#3 .iCmd0))
      ∧ ran (fun t => t.err.word = 0#32) (exec (.nop 0x1FFFFFFF#29) State.reset) := by decide +kernel

/-- D-4, D-5; the `STATUS` of row 1 of the INIT transcript. -/
theorem test_init :
    ran (fun t => t.statusWord = 0x105#32 ∧ t.initd) (exec (.init 0#29) State.reset)
      ∧ ran (fun t => t.err.word = 0x11#32 ∧ t.state = .idle) (exec (.init 0#29) bound) := by decide +kernel

/-- D-6, D-13. -/
theorem test_readRaw :
    ran (fun t => t.err.word = 0x11#32 ∧ t.state = .idle) (exec (.readRaw 0#29) State.reset)
      ∧ ran (fun t => t.err.word = 0x22#32) (exec (.readRaw 0#29) { waiting 1#3 .iCmd0 with initd := false }) := by
  decide +kernel

/-- D-7, D-14, and acceptance into state 8. -/
theorem test_measure :
    ran (fun t => t.err.word = 0x11#32) (exec (.measure 0#29) State.reset)
      ∧ ran (fun t => t.err.word = 0x22#32 ∧ t.state = .iCmd0) (exec (.measure 0#29) (waiting 1#3 .iCmd0))
      ∧ ran (fun t => t.state.code = 8#5 ∧ t.cmd = 6#3) (exec (.measure 0#29) bound) := by decide +kernel

/-- D-8, D-9, D-10. -/
theorem test_pure_commands :
    ran (fun t => t.state.code = 25#5) (exec (.decode 0#29) State.reset)
      ∧ ran (fun t => t.state.code = 26#5) (exec (.derive 0#29) State.reset)
      ∧ ran (fun t => t.state.code = 27#5) (exec (.classify 0#29) State.reset) := by decide +kernel

/-- D-11, D-12, D-15. -/
theorem test_reserved :
    ran (fun t => t.err.word = 0x34#32) (exec (.reserved 0#29) State.reset)
      ∧ ran (fun t => t.err.word = 0x22#32) (exec (.reserved 0#29) (waiting 1#3 .iCmd0))
      ∧ ran (fun t => t.err.word = 0x15#32) (exec (.reserved 0#29) { State.reset with err := ⟨true, false, false, 1#4⟩ }) := by
  decide +kernel

/-- D-16. -/
theorem test_first_cause_stays :
    ran (fun t => t.err.word = 0x35#32) (exec (.init 0#29) { bound with err := ⟨false, false, true, 3#4⟩ }) := by
  decide +kernel

/-! ## Host accesses -/

/-- H-1, H-2, H-3, H-4. -/
theorem test_hostWrite_data :
    ran (fun t => regView t 0x0C#8 = 0x35333319#32 ∧ t.frame.b1 = 0x33#8 ∧ t.valid) (exec (.hostWrite 0x0C#8 0x35333319#32) State.reset)
      ∧ ran (fun t => regView t 0x10#8 = 0x0000FFFF#32) (exec (.hostWrite 0x10#8 0xFFFFFFFF#32) State.reset)
      ∧ ran (fun t => regView t 0x24#8 = 0xFFFFFFFF#32) (exec (.hostWrite 0x24#8 0xFFFFFFFF#32) State.reset)
      ∧ ran (fun t => t.hi = 0#32 ∧ t.err.word = 0x22#32) (exec (.hostWrite 0x24#8 5#32) (waiting 1#3 .iCmd0)) := by
  decide +kernel

/-- H-5, H-6. -/
theorem test_hostWrite_ignored :
    ran (fun t => t.temp = 0#32 ∧ t.err.word = 0#32) (exec (.hostWrite 0x1C#8 1234#32) State.reset)
      ∧ ran (fun t => regView t 0x40#8 = 0#32 ∧ t.err.word = 0#32) (exec (.hostWrite 0x40#8 1#32) State.reset) := by
  decide +kernel

/-- H-7, H-8, H-9, and the `STATUS` 0xE05 of the stuck provider of 2.2. -/
theorem test_hostRead :
    ran (fun t => t.trace = [.hostRead 0x00#8 0#32]) (exec (.hostRead 0x00#8 0#32) State.reset)
      ∧ ran (fun t => t.trace = [.hostRead 0x28#8 7#32]) (exec (.hostRead 0x28#8 0#32) State.reset)
      ∧ ran (fun t => t.trace = [.hostRead 0x04#8 0#32]) (exec (.hostRead 0x04#8 0#32) State.reset)
      ∧ ran (fun t => t.trace = [.hostRead 0x04#8 0xE05#32]) (exec (.hostRead 0x04#8 0#32) (waiting 6#3 .tWait)) := by
  decide +kernel

/-- L1.4. -/
theorem test_valid_status_byte :
    ({ State.reset with frame := { frameL17 with b0 := 0x19#8 } }).valid = true
      ∧ ({ State.reset with frame := { frameL17 with b0 := 0x99#8 } }).valid = false
      ∧ ({ State.reset with frame := { frameL17 with b0 := 0x39#8 } }).valid = false := by decide +kernel

/-- P5's notation (R65): a POLL stays until its condition holds. -/
theorem test_poll_repeats :
    ran (fun t => t.host = [progWaitIdle]) (takeTurn .host { waiting 1#3 .iCmd0 with host := [progWaitIdle] })
      ∧ ran (fun t => t.host = []) (takeTurn .host { bound with host := [progWaitIdle] }) := by decide +kernel

/-! ## Provider operations -/

/-- R84: each completes its own request, and R136: no other. -/
theorem test_bus_operations :
    ran (fun t => t.cpl = some 0#8) (exec .start (waiting 1#3 .iStart))
      ∧ ran (fun t => t.cpl = some 0#8) (exec .stop (waiting 1#3 .iStop))
      ∧ ran (fun t => t.cpl = some 0#8) (exec (.addrW 0x38#7) (waiting 1#3 .iAddr))
      ∧ ran (fun t => t.cpl = some 0#8) (exec (.addrR 0x38#7) (waiting 2#3 .rAddr))
      ∧ ran (fun t => t.cpl = some 0#8) (exec (.write 0x08#8) (waiting 1#3 .iCmd1))
      ∧ ran (fun t => t.cpl = none) (exec .stop (waiting 1#3 .iStart)) := by decide +kernel

/-- R84, R92, R93, row 10 of the MEASURE transcript: the sensor's byte comes back. -/
theorem test_reads :
    ran (fun t => t.cpl = some 0x19#8 ∧ t.sensor = [0x33#8]) (exec .readAck { waiting 6#3 .rB0 with sensor := [0x19#8, 0x33#8] })
      ∧ ran (fun t => t.cpl = some 0x66#8 ∧ t.sensor = []) (exec .readNak { waiting 6#3 .rB5 with sensor := [0x66#8] }) := by
  decide +kernel

/-- R85. -/
theorem test_delay :
    ran (fun t => t.cpl = some 0#8 ∧ t.frame = State.reset.frame) (exec (.delay 20#17) { bound with req := some (.delay 20#17) }) := by
  decide +kernel

/-- Row 10 of the MEASURE transcript, then rows 16 and 17's next states: `frame[0]` = 0x19, R_WAIT goes to DEC or IDLE. -/
theorem test_fsm_consumes :
    ran (fun t => t.frame.b0 = 0x19#8 ∧ t.state = .rB1) (takeTurn .fsm { waiting 6#3 .rB0 with cpl := some 0x19#8 })
      ∧ ran (fun t => t.state = .dec ∧ t.done = false) (takeTurn .fsm { waiting 6#3 .rWait with cpl := some 0#8 })
      ∧ ran (fun t => t.state = .idle ∧ t.done) (takeTurn .fsm { waiting 2#3 .rWait with cpl := some 0#8 }) := by
  decide +kernel

/-- R86 and the stuck provider of 2.2: after the timing provider hangs in T_WAIT its turn changes nothing, `STATUS` stays
0xE05, and a command raises `OVR`. -/
theorem test_hung_provider :
    ran (fun t => ran (fun u => u.cpl = none ∧ u.statusWord = 0xE05#32) (takeTurn .tmr t)) (takeTurn .tmrHang (waiting 6#3 .tWait))
      ∧ ran (fun t => t.err.word = 0x22#32) (exec (.measure 0#29) { waiting 6#3 .tWait with tmrHung := true })
      ∧ ran (fun t => t.state = .idle) (takeTurn .reset { waiting 6#3 .tWait with tmrHung := true }) := by decide +kernel

/-! ## Datapath (L1.2, L1.3, L1.7 and 2.3) -/

/-- L1.7, and row 18 of the MEASURE transcript: then HIC. -/
theorem test_dec_frame :
    ran (fun t => t.rawh = 0x33333#20 ∧ t.rawt = 0x56666#20 ∧ t.temp = 0x6D5#32 ∧ t.hum = 19#32 ∧ t.state = .hic)
      (exec .dec { inDatapath 6#3 .dec with frame := frameL17 }) := by decide +kernel

/-- L1.2, L1.3, and the frames of all zeros and of all ones. -/
theorem test_dec_corners :
    ran (fun t => t.rawh = 0x19999#20 ∧ t.hum = 9#32) (exec .dec { inDatapath 3#3 .dec with frame := ⟨0x19#8, 0x19#8, 0x99#8, 0x9A#8, 0x66#8, 0x66#8⟩ })
      ∧ ran (fun t => t.rawt = 0x6AAAA#20 ∧ t.temp = 0xD05#32 ∧ t.state = .idle ∧ t.done) (exec .dec { inDatapath 3#3 .dec with frame := ⟨0x19#8, 0x00#8, 0x00#8, 0x06#8, 0xAA#8, 0xAA#8⟩ })
      ∧ ran (fun t => t.temp = 0xFFFFEC78#32 ∧ t.hum = 0#32) (exec .dec (inDatapath 3#3 .dec))
      ∧ ran (fun t => t.temp = 0x3A97#32 ∧ t.hum = 99#32) (exec .dec { inDatapath 3#3 .dec with frame := ⟨0xFF#8, 0xFF#8, 0xFF#8, 0xFF#8, 0xFF#8, 0xFF#8⟩ }) := by
  decide +kernel

/-- R112: HIC enters CLS and leaves `BAND` and `TEMP`. -/
theorem test_hic_enters_cls :
    ran (fun t => t.state = .cls ∧ t.band = 7#3 ∧ t.temp = 0#32) (exec .hic (inDatapath 4#3 .hic)) := by decide +kernel

/-- 2.5: `HI` under the reference instance, from both signs. -/
theorem test_hic_reference :
    (writeHeatIndex hiRef { State.reset with temp := 2500#32, hum := 50#32 }).hi = 0x1A#32
      ∧ (writeHeatIndex hiRef { State.reset with temp := 1749#32, hum := 19#32 }).hi = 0x17#32
      ∧ (writeHeatIndex hiRef State.reset).hi = 0xFFFFFFF7#32
      ∧ (writeHeatIndex hiRef { State.reset with temp := 0xFFFFEC78#32, hum := 99#32 }).hi = 0x30A#32
      ∧ (writeHeatIndex hiRef { State.reset with temp := 14999#32, hum := 0#32 }).hi = 0xFFFFFFD4#32 := by decide +kernel

/-- L1.5 and 2.4. -/
theorem test_rhaz :
    rhaz (174 / 10) = 17 ∧ rhaz (-6 / 10) = -1 ∧ rhaz (1 / 2) = 1 ∧ rhaz (-1 / 2) = -1 ∧ rhaz (-4 / 10) = 0
      ∧ rhaz (5 / 2) = 3 ∧ rhaz (-5 / 2) = -3 ∧ rhaz (4999 / 10000) = 0 := by decide +kernel

/-- L1.6 and 2.6: the signed ends and every boundary. -/
theorem test_cls :
    ran (fun t => t.band = 0#3 ∧ t.state = .idle ∧ t.done) (exec .cls { inDatapath 5#3 .cls with hi := 0x80000000#32 })
      ∧ ran (fun t => t.band = 5#3) (exec .cls { inDatapath 5#3 .cls with hi := 0x7FFFFFFF#32 })
      ∧ [-1, 0, 1, 10, 11, 17, 18, 27, 28, 34, 35, 36].map (fun h => (classifyBand h).code)
        = [0#3, 0#3, 1#3, 1#3, 2#3, 2#3, 3#3, 3#3, 4#3, 4#3, 5#3, 5#3] := by decide +kernel

/-! ## Witnesses: for each statement with hypotheses, states and operands that meet them together, clause by clause -/

/-- A state with a schedule. -/
def sched (ts : List Turn) (s : State) : State := { s with turns := ts }

theorem protocolInv_reset : ProtocolInv State.reset := by
  refine ⟨by intro k; exact fun h => FsmState.noConfusion h, rfl, fun _ => rfl, ?_, ?_⟩
  · simp [cmdRuns, FsmState.inInit, FsmState.inRead, State.reset, FsmState.code]
  · simp [FsmState.inInit, FsmState.inRead, State.reset, FsmState.code]

theorem protocolInv_waiting : ProtocolInv (waiting 1#3 .iCmd0) := by
  refine ⟨by intro k; exact fun h => FsmState.noConfusion h, rfl, fun _ => rfl, ?_, fun _ => rfl⟩
  simp [cmdRuns, FsmState.inInit, FsmState.inRead, waiting, FsmState.code]

theorem witness_EncodedInstructionDecodesBack :
    (Instr.hostRead 0xFC#8 0xFFFFFFFF#32).wf = true ∧ (Instr.hostWrite 0x00#8 0#32).wf = true ∧ (Instr.write 0xFF#8).wf = true := by
  decide

theorem witness_AcceptedDatumReencodes :
    decode (.busop 0x4FE#12) = .ok (.addrW 0x7F#7) ∧ decode (.hostacc 0x7FFFFFFFFF#39) = .ok (.hostWrite 0xFC#8 0xFFFFFFFF#32) := by
  decide +kernel

theorem witness_NeverIssuedBusWordsRejected :
    (6#3 = 6#3 ∨ 6#3 = 7#3) ∧ ((0#3 = 0#3 ∨ 0#3 = 1#3) ∧ (0xFF#8 ≠ 0#8 ∨ false = true)) ∧ ((1#3 = 0#3 ∨ 1#3 = 1#3) ∧ (0#8 ≠ 0#8 ∨ true = true))
      ∧ ((2#3 = 2#3 ∨ 2#3 = 3#3) ∧ ((0x80#8).getLsbD 7 = true ∨ false = true)) ∧ ((3#3 = 2#3 ∨ 3#3 = 3#3) ∧ ((0x7F#8).getLsbD 7 = true ∨ true = true))
      ∧ 0x01#8 ≠ 0#8 ∧ (0x39#7 ≠ 0x38#7 ∧ 0x7F#7 ≠ 0x38#7) ∧ 0xFF#8 ∉ [0xE1#8, 0x08#8, 0x00#8, 0xAC#8, 0x33#8]
      ∧ reqOf .rB5 = some (reqRead false) ∧ reqOf .tWait = some (.delay Config.tMeasUs) :=
  ⟨by decide, by decide, by decide, by decide, by decide, by decide, by decide, by decide, rfl, rfl⟩

theorem witness_CommandIgnoresHighBits : cmdField 0xFFFFFFFE#32 = cmdField 6#32 := by decide

theorem witness_StepRunsDecodedInstruction :
    (∃ (s : State) (a : Turn) (ts : List Turn), s.turns = a :: ts) ∧ State.reset.turns = []
    ∧ (∃ (s : State) (op : HostOp) (rest : List HostOp) (d : Datum) (i : Instr),
      (popTurn s).1 = .host ∧ s.host = op :: rest ∧ op.datum = .ok d ∧ decode d = .ok i ∧ op.finished s = false)
    ∧ (∃ (s : State) (op : HostOp) (rest : List HostOp) (d : Datum) (i : Instr),
      (popTurn s).1 = .host ∧ s.host = op :: rest ∧ op.datum = .ok d ∧ decode d = .ok i ∧ op.finished s = true)
    ∧ (∃ (s : State) (op : BitVec 3) (arg : Byte) (ack : Bool) (i : Instr),
      (popTurn s).1 = .bus ∧ s.req = some (.bus op arg ack) ∧ s.cpl = none ∧ s.busHung = false
        ∧ decode (.busop (busopWord op arg ack)) = .ok i)
    ∧ (∃ (s : State) (n : BitVec 17),
      (popTurn s).1 = .tmr ∧ s.req = some (.delay n) ∧ s.cpl = none ∧ s.tmrHung = false)
    ∧ (∃ (s : State) (i : Instr), (popTurn s).1 = .fsm ∧ decode (.fsmstate s.state.code) = .ok i) :=
  ⟨⟨sched [.host] bound, .host, [], rfl⟩, rfl,
    ⟨sched [.host] { waiting 1#3 .iCmd0 with host := [progWaitIdle] }, progWaitIdle, [], .hostacc 0x0100000000#39, .hostRead 0x04#8 0#32,
      rfl, rfl, by decide +kernel, by decide +kernel, by decide +kernel⟩,
    ⟨sched [.host] { bound with host := [progCmd 6#3] }, progCmd 6#3, [], .hostacc 0x4000000006#39, .hostWrite 0x00#8 6#32,
      rfl, rfl, by decide +kernel, by decide +kernel, rfl⟩,
    ⟨sched [.bus] (waiting 2#3 .rB5), 5#3, 0#8, false, .readNak, rfl, rfl, rfl, rfl, by decide +kernel⟩,
    ⟨sched [.tmr] (waiting 1#3 .iWait), Config.tInitUs, rfl, rfl, rfl, rfl⟩,
    ⟨sched [.fsm] (inDatapath 5#3 .cls), .cls, rfl, by decide +kernel⟩⟩

/-- The read state, the last state of INIT and the branching state. -/
theorem witness_FsmConsumesCompletion :
    (∃ (s : State) (r : Request) (d : Byte), (popTurn s).1 = .fsm ∧ reqOf s.state = some r ∧ s.cpl = some d ∧ s.state = .rB5)
    ∧ (∃ (s : State) (r : Request) (d : Byte), (popTurn s).1 = .fsm ∧ reqOf s.state = some r ∧ s.cpl = some d ∧ s.state = .iWait)
    ∧ (∃ (s : State) (r : Request) (d : Byte), (popTurn s).1 = .fsm ∧ reqOf s.state = some r ∧ s.cpl = some d ∧ s.state = .rWait ∧ s.cmd = 6#3) :=
  ⟨⟨sched [.fsm] { waiting 2#3 .rB5 with cpl := some 0x66#8 }, _, 0x66#8, rfl, rfl, rfl, rfl⟩,
    ⟨sched [.fsm] { waiting 1#3 .iWait with cpl := some 0#8 }, _, 0#8, rfl, rfl, rfl, rfl⟩,
    ⟨sched [.fsm] { waiting 6#3 .rWait with cpl := some 0#8 }, _, 0#8, rfl, rfl, rfl, rfl, rfl⟩⟩

/-- Each way an agent has no step: idle, waiting, another's request, already completed, hung, and a program at its end. -/
theorem witness_DisabledAgentHolds :
    ((popTurn (sched [.fsm] State.reset)).1 = .fsm ∧ (sched [.fsm] State.reset).state = .idle)
      ∧ ((reqOf (sched [.fsm] (waiting 1#3 .iCmd0)).state).isSome = true ∧ (sched [.fsm] (waiting 1#3 .iCmd0)).cpl = none)
      ∧ ((popTurn (sched [.bus] State.reset)).1 = .bus ∧ ¬ BusCanStep (sched [.bus] State.reset))
      ∧ ¬ BusCanStep (sched [.bus] { waiting 1#3 .iCmd0 with cpl := some 0#8 })
      ∧ ¬ BusCanStep (sched [.bus] { waiting 1#3 .iCmd0 with busHung := true })
      ∧ ((popTurn (sched [.tmr] State.reset)).1 = .tmr ∧ ¬ TmrCanStep (sched [.tmr] (waiting 1#3 .iCmd0)))
      ∧ ¬ TmrCanStep (sched [.tmr] { waiting 1#3 .iWait with tmrHung := true })
      ∧ ((popTurn (sched [.host] State.reset)).1 = .host ∧ (sched [.host] State.reset).host = []) := by
  refine ⟨⟨rfl, rfl⟩, ⟨rfl, rfl⟩, ⟨rfl, ?_⟩, ?_, ?_, ⟨rfl, ?_⟩, ?_, ⟨rfl, rfl⟩⟩
  · rintro ⟨⟨⟨_, _, _, h⟩, _⟩, _⟩; cases h
  · rintro ⟨⟨_, h⟩, _⟩; cases h
  · rintro ⟨_, h⟩; cases h
  · rintro ⟨⟨⟨_, h⟩, _⟩, _⟩; cases h
  · rintro ⟨_, h⟩; cases h

theorem witness_UnusedStateRefused :
    ∃ (s : State) (k : Fin 4), (popTurn s).1 = .fsm ∧ s.state = .unused k :=
  ⟨sched [.fsm] { bound with state := .unused 3 }, 3, rfl, rfl⟩

theorem witness_StepsCompleteUnderProtocolInv :
    ∃ s : State, ProtocolInv s ∧ (∀ op ∈ s.host, ∃ d, op.datum = .ok d) ∧ s.host ≠ [] ∧ s.state ≠ .idle := by
  refine ⟨{ waiting 1#3 .iCmd0 with host := [progCmd 6#3, progWaitIdle] }, protocolInv_waiting, ?_, by simp, by simp [waiting]⟩
  intro op hop
  rcases List.mem_cons.mp hop with rfl | h
  · exact ⟨_, rfl⟩
  · rw [List.mem_singleton.mp h]; exact ⟨_, rfl⟩

theorem witness_ResetGivesTableValues :
    ∃ s : State, (popTurn s).1 = .reset ∧ s.state = .iCmd0 ∧ s.initd = true :=
  ⟨sched [.reset] (waiting 1#3 .iCmd0), rfl, rfl, rfl⟩

theorem witness_LateCompletionIgnored : ∃ s : State, s.req = none ∧ s.initd = true := ⟨bound, rfl, rfl⟩

theorem witness_InitBindsSessionAndStarts : ∃ s : State, s.state = .idle ∧ s.initd = false := ⟨State.reset, rfl, rfl⟩

theorem witness_ReadCommandsStartTrigger : ∃ s : State, s.state = .idle ∧ s.initd = true := ⟨bound, rfl, rfl⟩

theorem witness_PureCommandsEnterDatapath : ∃ s : State, s.state = .idle ∧ s.initd = false := ⟨State.reset, rfl, rfl⟩

theorem witness_ReservedCommandRecordsError :
    (∃ s : State, s.state = .idle) ∧ (∃ s : State, s.state ≠ .idle ∧ s.err.cause ≠ 0#4) :=
  ⟨⟨State.reset, rfl⟩, ⟨{ waiting 1#3 .iCmd0 with err := ⟨true, false, false, 1#4⟩ }, by decide, by decide⟩⟩

theorem witness_BusyCommandRecordsOverrun :
    ∃ (s : State) (v : Word), s.state ≠ .idle ∧ cmdField v ≠ 0#3 := ⟨waiting 1#3 .iCmd0, 7#32, by decide, by decide⟩

theorem witness_SessionViolationRecordsPre :
    (State.reset.state = .idle ∧ cmdField 2#32 = 2#3 ∧ State.reset.initd = false)
      ∧ (State.reset.state = .idle ∧ cmdField 6#32 = 6#3 ∧ State.reset.initd = false)
      ∧ (bound.state = .idle ∧ cmdField 1#32 = 1#3 ∧ bound.initd = true) := by decide

/-- The three ways a write raises an error, with the error recorded before in the first; and a write that changes `ERR`. -/
theorem witness_RaisedErrorChangesOnlyErr :
    ((waiting 1#3 .iCmd0).state ≠ .idle ∧ ((0x00#8 = 0x00#8 ∧ cmdField 7#32 ≠ 0#3) ∨ 0x00#8 = 0x0C#8 ∨ 0x00#8 = 0x10#8 ∨ 0x00#8 = 0x24#8))
      ∧ (∃ s : State, s.state ≠ .idle ∧ s.err.ovr = true ∧ s.err.cause ≠ 0#4 ∧ ((0x24#8 = 0x00#8 ∧ cmdField 0#32 ≠ 0#3) ∨ 0x24#8 = 0x0C#8 ∨ 0x24#8 = 0x10#8 ∨ 0x24#8 = 0x24#8))
      ∧ (State.reset.state = .idle ∧ cmdField 7#32 = 7#3) ∧ (State.reset.state = .idle ∧ (cmdField 6#32 = 2#3 ∨ cmdField 6#32 = 6#3) ∧ State.reset.initd = false)
      ∧ (bound.state = .idle ∧ cmdField 1#32 = 1#3 ∧ bound.initd = true)
      ∧ ∃ (s t : State) (off : BitVec 8) (v : Word), exec (.hostWrite off v) s = .next t ∧ t.err ≠ s.err :=
  ⟨by decide, ⟨{ waiting 1#3 .iCmd0 with err := ⟨false, true, false, 2#4⟩ }, by decide, rfl, by decide, by decide⟩, by decide, by decide, by decide,
    waiting 1#3 .iCmd0, _, 0x24#8, 5#32, rfl, by decide⟩

theorem witness_CommandFrame :
    (∃ t, exec (decodeCtrl 6#32) bound = .next t ∧ t.state = .tStart)
      ∧ (∃ t, exec (decodeCtrl 6#32) State.reset = .next t ∧ t.err.pre = true) :=
  ⟨⟨_, rfl, rfl⟩, ⟨_, rfl, rfl⟩⟩

theorem witness_HostReadHasNoSideEffect :
    wordAligned 0x00#8 = true ∧ (wordAligned 0x2C#8 = true ∧ 0x2C ≤ (0x2C#8).toNat) ∧ (wordAligned 0xFC#8 = true ∧ 0x2C ≤ (0xFC#8).toNat)
      ∧ ∃ t, exec (.hostRead 0x04#8 0#32) State.reset = .next t :=
  ⟨rfl, by decide, by decide, _, rfl⟩

theorem witness_RegisterMapViews : 0x2C ≤ (0x2C#8).toNat ∧ 0x2C ≤ (0xFF#8).toNat := by decide

theorem witness_IdleDataWriteLoadsRegister : ∃ s : State, s.state = .idle ∧ s.frame.b0 ≠ 0#8 :=
  ⟨{ State.reset with frame := frameL17 }, rfl, by decide⟩

theorem witness_BusyDataWriteRecordsOverrun :
    (0x0C#8 = 0x0C#8 ∨ 0x0C#8 = 0x10#8 ∨ 0x0C#8 = 0x24#8) ∧ (0x24#8 = 0x0C#8 ∨ 0x24#8 = 0x10#8 ∨ 0x24#8 = 0x24#8)
      ∧ (waiting 1#3 .iCmd0).state ≠ .idle := by decide

theorem witness_ReadOnlyWriteIgnored :
    (∀ off ∈ [0x04#8, 0x28#8, 0x2C#8, 0xFC#8], wordAligned off = true ∧ off ≠ 0x00#8 ∧ off ≠ 0x0C#8 ∧ off ≠ 0x10#8 ∧ off ≠ 0x24#8) := by
  decide

/-- Each clause at its ends; the second and third exclude each other, the fourth has no address of theirs. `BASE` has no
value here: where it is 0 no address lies below it, and the address before it is one otherwise. -/
theorem witness_OnlyAlignedWordsReachThePort :
    wordAligned 0x01#8 = false ∧ wordAligned 0xFF#8 = false ∧ (255 < 256 ∧ (4 ≠ 4 ∨ 255 % 4 ≠ 0)) ∧ (0 < 256 ∧ (1 ≠ 4 ∨ 0 % 4 ≠ 0))
      ∧ (252 < 256 ∧ 252 % 4 = 0) ∧ (0 < 256 ∧ 0 % 4 = 0)
      ∧ (Config.base + 256 < Config.base ∨ Config.base + 256 ≤ Config.base + 256)
      ∧ (Config.base = 0 ∨ Config.base - 1 < Config.base ∨ Config.base + 256 ≤ Config.base - 1) :=
  ⟨rfl, rfl, by decide, by decide, by decide, by decide, .inr (Nat.le_refl _), by omega⟩

theorem witness_DataWriteReadsBack : State.reset.state = .idle := rfl

theorem witness_HostWriteFrame :
    (∃ t, exec (.hostWrite 0x0C#8 0xFFFFFFFF#32) State.reset = .next t ∧ t.frame ≠ State.reset.frame)
      ∧ (∃ t, exec (.hostWrite 0x24#8 5#32) State.reset = .next t ∧ t.hi ≠ State.reset.hi)
      ∧ (∃ t, exec (.hostWrite 0x24#8 5#32) (waiting 1#3 .iCmd0) = .next t ∧ t.err ≠ (waiting 1#3 .iCmd0).err) :=
  ⟨⟨_, rfl, by decide⟩, ⟨_, rfl, by decide⟩, ⟨_, rfl, by decide⟩⟩

theorem witness_BusOperationsComplete :
    ((waiting 1#3 .iStart).req = some (.bus 0#3 0#8 false) ∧ (waiting 1#3 .iStart).cpl = none)
      ∧ ((waiting 1#3 .iStop).req = some (.bus 1#3 0#8 false) ∧ (waiting 1#3 .iStop).cpl = none)
      ∧ ((waiting 1#3 .iAddr).req = some (.bus 2#3 (0#1 ++ 0x38#7) false) ∧ (waiting 1#3 .iAddr).cpl = none)
      ∧ ((waiting 2#3 .rAddr).req = some (.bus 3#3 (0#1 ++ 0x38#7) false) ∧ (waiting 2#3 .rAddr).cpl = none)
      ∧ ((waiting 1#3 .iCmd0).req = some (.bus 4#3 0xE1#8 false) ∧ (waiting 1#3 .iCmd0).cpl = none) := by decide +kernel

theorem witness_ReadsCompleteWithSensorByte :
    (∃ (s : State) (d : Byte) (rest : List Byte), s.req = some (.bus 5#3 0#8 true) ∧ s.cpl = none ∧ s.sensor = d :: rest)
      ∧ (∃ s : State, s.req = some (.bus 5#3 0#8 false) ∧ s.cpl = none ∧ s.sensor = []) :=
  ⟨⟨{ waiting 2#3 .rB0 with sensor := [0x19#8] }, 0x19#8, [], rfl, rfl, rfl⟩, ⟨waiting 2#3 .rB5, rfl, rfl, rfl⟩⟩

theorem witness_DelayCompletes :
    (∃ (s : State) (n : BitVec 17), s.req = some (.delay n) ∧ s.cpl = none ∧ n = 0x1FFFF#17)
      ∧ (∃ (s : State), s.req = some (.delay Config.tMeasUs) ∧ s.cpl = none ∧ s.state = .tWait) :=
  ⟨⟨{ bound with req := some (.delay 0x1FFFF#17) }, 0x1FFFF#17, rfl, rfl, rfl⟩, ⟨waiting 2#3 .tWait, rfl, rfl, rfl⟩⟩

/-- One enabled, one not. -/
theorem witness_ProviderFrame :
    (∃ t, exec .readAck { waiting 2#3 .rB0 with sensor := [0x19#8] } = .next t ∧ t.sensor = [])
      ∧ (∃ t, exec .start State.reset = .next t) := ⟨⟨_, rfl, rfl⟩, ⟨_, rfl⟩⟩

/-- Another byte with the same high nibble, and one with the same low nibble. -/
theorem witness_RawFieldLayout :
    ((0x3F#8).toNat / 16 = frameL17.b3.toNat / 16 ∧ 0x3F#8 ≠ frameL17.b3)
      ∧ ((0xF5#8).toNat % 16 = frameL17.b3.toNat % 16 ∧ 0xF5#8 ≠ frameL17.b3) := by decide

theorem witness_DecDependsOnlyOnFieldBytes :
    ∃ s t : State, s.frame.b1 = t.frame.b1 ∧ s.frame.b2 = t.frame.b2 ∧ s.frame.b3 = t.frame.b3 ∧ s.frame.b4 = t.frame.b4
      ∧ s.frame.b5 = t.frame.b5 ∧ s.frame.b0 ≠ t.frame.b0 ∧ s.cmd ≠ t.cmd :=
  ⟨{ inDatapath 3#3 .dec with frame := frameL17 }, { inDatapath 6#3 .dec with frame := { frameL17 with b0 := 0x99#8 } },
    rfl, rfl, rfl, rfl, rfl, by decide, by decide⟩

/-- Both signs, a half of each sign, and 0. -/
theorem witness_RoundsHalfAwayFromZero :
    (0 : Rat) ≤ 5 / 2 ∧ (-5 / 2 : Rat) < 0 ∧ |(5 / 2 : Rat) - (rhaz (5 / 2) : Rat)| = 1 / 2
      ∧ |(-5 / 2 : Rat) - (rhaz (-5 / 2) : Rat)| = 1 / 2 ∧ (0 : Rat) ≤ 0 := by
  have h : rhaz (5 / 2) = 3 ∧ rhaz (-5 / 2) = -3 := by decide +kernel
  rw [h.1, h.2]
  norm_num

/-- Each half-open band at both of its ends (R114): no value falls under two of them. -/
theorem witness_ClassifierThresholds :
    (0 : Int) ≤ 0 ∧ ((1 : Int) ≤ 1 ∧ (1 : Int) ≤ 10) ∧ ((1 : Int) ≤ 10 ∧ (10 : Int) ≤ 10) ∧ ((11 : Int) ≤ 11 ∧ (11 : Int) ≤ 17)
      ∧ ((11 : Int) ≤ 17 ∧ (17 : Int) ≤ 17) ∧ ((18 : Int) ≤ 18 ∧ (18 : Int) ≤ 27) ∧ ((18 : Int) ≤ 27 ∧ (27 : Int) ≤ 27)
      ∧ ((28 : Int) ≤ 28 ∧ (28 : Int) ≤ 34) ∧ ((28 : Int) ≤ 34 ∧ (34 : Int) ≤ 34) ∧ (35 : Int) ≤ 35 := by decide

/-- The clauses for raw fields up to a bound, at the bound and at 0. -/
theorem witness_DecoderRanges :
    (0#20).toNat ≤ 52 ∧ (52#20).toNat ≤ 52 ∧ (0#20).toNat ≤ 10485 ∧ (10485#20).toNat ≤ 10485 := by decide

theorem witness_ClassifierMonotone : (0 : Int) ≤ 1 ∧ (34 : Int) ≤ 35 := by decide

theorem witness_ReferenceIndexBounded :
    ((-5000 : Int) ≤ -5000 ∧ (-5000 : Int) ≤ 14999 ∧ (0 : Int) ≤ 0 ∧ (0 : Int) ≤ 99)
      ∧ ((-5000 : Int) ≤ 14999 ∧ (14999 : Int) ≤ 14999 ∧ (0 : Int) ≤ 99 ∧ (99 : Int) ≤ 99) := by decide

theorem witness_DatapathFrame :
    (∃ t, exec .dec (inDatapath 6#3 .dec) = .next t ∧ t.state ≠ .idle) ∧ (∃ t, exec .hic (inDatapath 4#3 .hic) = .next t)
      ∧ (∃ t, exec .cls (inDatapath 5#3 .cls) = .next t) := ⟨⟨_, rfl, by decide⟩, ⟨_, rfl⟩, ⟨_, rfl⟩⟩

theorem witness_StepKeepsProtocolInv :
    ∃ s t : State, ProtocolInv s ∧ step s = .next t ∧ s.state ≠ .idle ∧ t.cpl ≠ none :=
  ⟨sched [.bus] (waiting 1#3 .iCmd0), _, protocolInv_waiting, rfl, by decide, by decide⟩

theorem witness_StepKeepsResultAndErrInv :
    ∃ s t : State, ResultInv s ∧ ErrInv s.err ∧ step s = .next t ∧ t.temp ≠ s.temp := by
  refine ⟨sched [.fsm] (inDatapath 3#3 .dec), _, ?_, ?_, rfl, by decide +kernel⟩
  · unfold ResultInv; decide +kernel
  · unfold ErrInv; decide +kernel

/-- The third command byte of INIT is outstanding, and the three requests before it are in the history. -/
theorem witness_StepKeepsTranscript :
    (∃ s t : State, TranscriptInv s ∧ step s = .next t ∧ s.state = .iCmd0)
      ∧ (∃ s : State, TranscriptInv s ∧ s.state = .iWait) ∧ (∃ s : State, TranscriptInv s ∧ s.state = .rWait) := by
  refine ⟨⟨sched [.bus] { waiting 1#3 .iCmd0 with trace := (initTranscript.take 3).map .issue }, _, ?_, rfl, rfl⟩,
    ⟨{ waiting 1#3 .iWait with trace := initTranscript.map .issue }, ?_, rfl⟩,
    ⟨{ waiting 2#3 .rWait with trace := readTranscript.map .issue }, ?_, rfl⟩⟩ <;> exact List.suffix_refl _

theorem witness_StepKeepsPortDiscipline :
    ∃ s t : State, ProtocolInv s ∧ PortInv s ∧ step s = .next t ∧ s.state ≠ .idle :=
  ⟨sched [.bus] { waiting 1#3 .iCmd0 with trace := [.issue (reqWrite 0xE1#8)] }, _, protocolInv_waiting, rfl, rfl, by decide⟩

/-- A host write of the frame, a read's byte, DEC, HIC and CLS: each register does change somewhere. -/
theorem witness_RegistersChangeOnlyAtTheirSteps :
    (∃ (s t : State), (popTurn s).1 = .host ∧ step s = .next t ∧ t.frame ≠ s.frame)
      ∧ (∃ (s t : State), (popTurn s).1 = .fsm ∧ step s = .next t ∧ t.frame ≠ s.frame)
      ∧ (∃ (s t : State), (popTurn s).1 = .fsm ∧ step s = .next t ∧ t.temp ≠ s.temp)
      ∧ (∃ (s t : State), (popTurn s).1 = .host ∧ step s = .next t ∧ t.hi ≠ s.hi)
      ∧ (∃ (s t : State), (popTurn s).1 = .fsm ∧ step s = .next t ∧ t.band ≠ s.band) :=
  ⟨⟨sched [.host] { bound with host := [progW 0x0C#8 0x19#32] }, _, rfl, rfl, by decide +kernel⟩,
    ⟨sched [.fsm] { waiting 2#3 .rB0 with cpl := some 0x19#8 }, _, rfl, rfl, by decide +kernel⟩,
    ⟨sched [.fsm] (inDatapath 3#3 .dec), _, rfl, rfl, by decide +kernel⟩,
    ⟨sched [.host] { bound with host := [progLdHi 5] }, _, rfl, rfl, by decide +kernel⟩,
    ⟨sched [.fsm] (inDatapath 5#3 .cls), _, rfl, rfl, by decide +kernel⟩⟩

theorem witness_OnlyResetClearsErrorsAndSession :
    (∃ (s t : State), (popTurn s).1 = .host ∧ step s = .next t ∧ s.initd = false ∧ t.initd = true ∧ s.done = true ∧ t.done = false)
      ∧ (∃ (s t : State), (popTurn s).1 = .fsm ∧ step s = .next t ∧ s.done = false ∧ t.done = true)
      ∧ (∃ (s t : State), (popTurn s).1 = .host ∧ step s = .next t ∧ s.err.pre = true ∧ s.err.cause ≠ 0#4 ∧ t.err ≠ s.err) :=
  ⟨⟨sched [.host] { State.reset with done := true, host := [.command 1#32] }, _, rfl, rfl, rfl, rfl, rfl, rfl⟩,
    ⟨sched [.fsm] (inDatapath 5#3 .cls), _, rfl, rfl, rfl, rfl⟩,
    ⟨sched [.host] { State.reset with err := ⟨true, false, false, 1#4⟩, host := [.command 7#32] }, _, rfl, rfl, rfl, by decide, by decide +kernel⟩⟩

theorem witness_CommandsAcceptedOnlyInIdle :
    (∃ (s t : State), (popTurn s).1 = .host ∧ step s = .next t ∧ s.state = .idle ∧ t.state ≠ .idle ∧ t.cmd ≠ s.cmd)
      ∧ (∃ (s t : State), (popTurn s).1 = .fsm ∧ step s = .next t ∧ t.state ≠ s.state) :=
  ⟨⟨sched [.host] { bound with host := [.command 6#32] }, _, rfl, rfl, rfl, by decide +kernel, by decide +kernel⟩,
    ⟨sched [.fsm] (inDatapath 5#3 .cls), _, rfl, rfl, by decide +kernel⟩⟩

/-- T_WAIT with the delay outstanding (R86's stuck provider): two turns of others, and a timing provider that hangs. -/
theorem witness_NoCompletionNoProgress :
    (∃ (n : Nat) (s t : State) (r : Request), n = 2 ∧ reqOf s.state = some r ∧ s.req = some r ∧ s.cpl = none
      ∧ n ≤ s.turns.length ∧ runSteps n s = .next t ∧ ∀ a ∈ s.turns, a = .host ∨ a = .fsm)
    ∧ (∃ (n : Nat) (s t : State) (r : Request), n = 3 ∧ reqOf s.state = some r ∧ s.req = some r ∧ s.cpl = none
      ∧ n ≤ s.turns.length ∧ runSteps n s = .next t ∧ (∀ a ∈ s.turns, a ≠ .reset) ∧ WaitsOnHungProvider s) :=
  ⟨⟨2, sched [.host, .fsm] { waiting 6#3 .tWait with host := [.command 6#32] }, _, _, rfl, rfl, rfl, rfl, by decide, rfl, by decide⟩,
    ⟨3, sched [.tmr, .bus, .fsm] { waiting 6#3 .tWait with tmrHung := true }, _, _, rfl, rfl, rfl, rfl, by decide, rfl, by decide,
      .inr ⟨rfl, rfl⟩⟩⟩

/-- One whose provider lives, and one that waits for a hung one: R55's example, which is stuck. -/
theorem witness_BusyBlockCanProgress :
    (∃ s t : State, ProtocolInv s ∧ s.state ≠ .idle ∧ ¬ WaitsOnHungProvider s ∧ takeTurn .host s = .next t)
      ∧ (∃ s : State, ProtocolInv s ∧ s.state ≠ .idle ∧ WaitsOnHungProvider s ∧ Stuck s) := by
  refine ⟨⟨{ waiting 1#3 .iCmd0 with host := [.command 6#32] }, _, protocolInv_waiting, by decide, ?_, rfl⟩,
    ⟨{ waiting 1#3 .iCmd0 with busHung := true }, protocolInv_waiting, by decide, .inl ⟨rfl, rfl⟩, ?_, ?_, ?_, ?_⟩⟩
  · rintro (⟨_, h⟩ | ⟨_, h⟩) <;> cases h
  · rintro ⟨h, _⟩; cases h
  · rintro (h | h | h | ⟨_, h⟩) <;> cases h
  · rintro ⟨_, h⟩; cases h
  · rintro ⟨⟨⟨_, h⟩, _⟩, _⟩; cases h

theorem witness_PureCommandsRunToCompletion :
    (∃ (s : State) (ts : List Turn) (hs : List HostOp), s.state = .idle ∧ s.turns = .host :: .fsm :: ts ∧ s.host = .command (ctrlWord 0#29 3#3) :: hs)
      ∧ (∃ (s : State) (ts : List Turn) (hs : List HostOp), s.state = .idle ∧ s.turns = .host :: .fsm :: .fsm :: ts ∧ s.host = .command (ctrlWord 0#29 4#3) :: hs)
      ∧ (∃ (s : State) (ts : List Turn) (hs : List HostOp), s.state = .idle ∧ s.turns = .host :: .fsm :: ts ∧ s.host = .command (ctrlWord 0#29 5#3) :: hs) :=
  ⟨⟨sched [.host, .fsm] { State.reset with host := [.command (ctrlWord 0#29 3#3)] }, [], [], rfl, rfl, rfl⟩,
    ⟨sched [.host, .fsm, .fsm] { State.reset with host := [.command (ctrlWord 0#29 4#3)] }, [], [], rfl, rfl, rfl⟩,
    ⟨sched [.host, .fsm] { State.reset with host := [.command (ctrlWord 0#29 5#3)] }, [], [], rfl, rfl, rfl⟩⟩

theorem witness_InitRunsToCompletion :
    ∃ (s : State) (ign : BitVec 29) (ts : List Turn) (hs : List HostOp), s.state = .idle ∧ s.initd = false
      ∧ s.busHung = false ∧ s.tmrHung = false ∧ s.turns = .host :: initTurns ++ ts ∧ s.host = .command (ctrlWord ign 1#3) :: hs :=
  ⟨{ State.reset with turns := .host :: initTurns, host := [.command (ctrlWord 0#29 1#3)] }, 0#29, [], [], rfl, rfl, rfl, rfl, rfl, rfl⟩

theorem witness_ReadRawRunsToCompletion :
    ∃ (s : State) (ign : BitVec 29) (ts : List Turn) (hs : List HostOp) (bs : List Byte), s.state = .idle ∧ s.initd = true
      ∧ s.busHung = false ∧ s.tmrHung = false ∧ s.turns = .host :: readTurns ++ ts ∧ s.host = .command (ctrlWord ign 2#3) :: hs
      ∧ s.sensor = [0x19#8, 0x33#8, 0x33#8, 0x35#8, 0x66#8, 0x66#8] ++ bs :=
  ⟨{ bound with turns := .host :: readTurns, host := [.command (ctrlWord 0#29 2#3)], sensor := [0x19#8, 0x33#8, 0x33#8, 0x35#8, 0x66#8, 0x66#8] },
    0#29, [], [], [], rfl, rfl, rfl, rfl, rfl, rfl, rfl⟩

theorem witness_MeasureRunsToCompletion :
    ∃ (s : State) (ign : BitVec 29) (ts : List Turn) (hs : List HostOp) (bs : List Byte), s.state = .idle ∧ s.initd = true
      ∧ s.busHung = false ∧ s.tmrHung = false ∧ s.turns = .host :: measureTurns ++ ts ∧ s.host = .command (ctrlWord ign 6#3) :: hs
      ∧ s.sensor = [0x99#8, 0x33#8, 0x33#8, 0x35#8, 0x66#8, 0x66#8] ++ bs :=
  ⟨{ bound with turns := .host :: measureTurns, host := [.command (ctrlWord 0#29 6#3)], sensor := [0x99#8, 0x33#8, 0x33#8, 0x35#8, 0x66#8, 0x66#8] },
    0#29, [], [], [], rfl, rfl, rfl, rfl, rfl, rfl, rfl⟩

end Sys2Proof.Tests
end

section
/-! SUPPORT. The state's registers (10_state.md): what each offset of the window shows, what a host write loads, what reset
gives, and the two invariants every step keeps. -/

namespace Sys2Proof.Machine

/-! ## What the register window shows -/

@[simp] theorem word0_byte0 (f : Frame) : f.word0.extractLsb' 0 8 = f.b0 := extract_low _ f.b0

@[simp] theorem word0_byte1 (f : Frame) : f.word0.extractLsb' 8 8 = f.b1 := extract_mid _ f.b1 f.b0

@[simp] theorem word0_byte2 (f : Frame) : f.word0.extractLsb' 16 8 = f.b2 := by
  rw [Frame.word0, BitVec.extractLsb'_append_eq_of_le (by decide)]
  exact extract_mid f.b3 f.b2 f.b1

@[simp] theorem word0_byte3 (f : Frame) : f.word0.extractLsb' 24 8 = f.b3 := by
  rw [Frame.word0, BitVec.extractLsb'_append_eq_of_le (by decide)]
  exact extract_top f.b3 f.b2 f.b1 rfl

@[simp] theorem word1_byte0 (f : Frame) : f.word1.extractLsb' 0 8 = f.b4 := extract_low _ f.b4

@[simp] theorem word1_byte1 (f : Frame) : f.word1.extractLsb' 8 8 = f.b5 := extract_mid 0#16 f.b5 f.b4

@[simp] theorem word1_reserved (f : Frame) : f.word1.extractLsb' 16 16 = 0#16 := extract_top 0#16 f.b5 f.b4 rfl

/-- R17: the four bytes of a word written to `FRAME0` are the word. -/
@[simp] theorem setWord0_word0 (f : Frame) (v : Word) : (f.setWord0 v).word0 = v := by
  simp only [Frame.word0, Frame.setWord0]
  rw [BitVec.extractLsb'_append_extractLsb'_eq_extractLsb' (len₁ := 8) (start₁ := 16) rfl,
    BitVec.extractLsb'_append_extractLsb'_eq_extractLsb' (len₁ := 8) (start₁ := 8) rfl,
    BitVec.extractLsb'_append_extractLsb'_eq_extractLsb' (len₁ := 8) (start₁ := 0) rfl]
  exact BitVec.extractLsb'_eq_self

/-- R18: of a word written to `FRAME1` the low half stays. -/
@[simp] theorem setWord1_word1 (f : Frame) (v : Word) : (f.setWord1 v).word1 = v &&& 0x0000FFFF#32 := by
  have hmask : ∀ i < 32, (0x0000FFFF#32).getLsbD i = decide (i < 16) := by decide
  apply BitVec.eq_of_getLsbD_eq
  intro i hi
  simp only [Frame.word1, Frame.setWord1, BitVec.getLsbD_append, BitVec.getLsbD_extractLsb', BitVec.getLsbD_and,
    hmask i hi]
  by_cases h8 : i < 8
  · simp [h8, show i < 16 by omega]
  · by_cases h16 : i < 16
    · simp [h8, h16, show i - 8 < 8 by omega, show 8 + (i - 8) = i by omega]
    · simp [h8, h16, show ¬ i - 8 < 8 by omega]

@[simp] theorem setWord0_word1 (f : Frame) (v : Word) : (f.setWord0 v).word1 = f.word1 := rfl

@[simp] theorem setWord1_word0 (f : Frame) (v : Word) : (f.setWord1 v).word0 = f.word0 := rfl

/-- R9: zero extension to a word keeps the value of a narrower register. -/
theorem zext32_toNat {n : Nat} (hn : n ≤ 32) (v : BitVec n) : (zext32 v).toNat = v.toNat :=
  BitVec.toNat_setWidth_of_le hn

/-- R38: every offset past the last register's is reserved and reads 0. -/
theorem regView_reserved (s : State) (off : BitVec 8) (h : 0x2C ≤ off.toNat) : regView s off = 0#32 := by
  unfold regView
  split
  case h_11 => rfl
  all_goals exact absurd h (by decide)

/-- A bit above an appended flag. -/
theorem getLsbD_appendFlag {n : Nat} (x : BitVec n) (b : Bool) (k : Nat) :
    (x ++ BitVec.ofBool b).getLsbD (k + 1) = x.getLsbD k := by
  simp [BitVec.getLsbD_append]

/-- A field above an appended flag. -/
theorem extract_appendFlag {n : Nat} (x : BitVec n) (b : Bool) (k len : Nat) :
    (x ++ BitVec.ofBool b).extractLsb' (k + 1) len = x.extractLsb' k len :=
  BitVec.extractLsb'_append_eq_of_le (Nat.le_add_left 1 k)

theorem statusWord_busy (s : State) : s.statusWord.getLsbD 0 = s.busy := getLsbD_lowBit _ s.busy

theorem statusWord_done (s : State) : s.statusWord.getLsbD 1 = s.done := by
  rw [State.statusWord, getLsbD_appendFlag, getLsbD_lowBit]

theorem statusWord_initd (s : State) : s.statusWord.getLsbD 2 = s.initd := by
  rw [State.statusWord, getLsbD_appendFlag, getLsbD_appendFlag, getLsbD_lowBit]

theorem statusWord_valid (s : State) : s.statusWord.getLsbD 3 = s.valid := by
  rw [State.statusWord, getLsbD_appendFlag, getLsbD_appendFlag, getLsbD_appendFlag, getLsbD_lowBit]

theorem statusWord_errs (s : State) : s.statusWord.getLsbD 4 = s.errs := by
  rw [State.statusWord, getLsbD_appendFlag, getLsbD_appendFlag, getLsbD_appendFlag, getLsbD_appendFlag,
    getLsbD_lowBit]

/-- R26: the fields of `STATUS` above its five flags. -/
theorem statusWord_aboveFlags (s : State) (k len : Nat) :
    s.statusWord.extractLsb' (k + 5) len = (0#19 ++ s.state.code ++ 0#3).extractLsb' k len := by
  rw [State.statusWord, extract_appendFlag, extract_appendFlag, extract_appendFlag, extract_appendFlag,
    extract_appendFlag]

theorem statusWord_reservedLow (s : State) : s.statusWord.extractLsb' 5 3 = 0#3 :=
  (statusWord_aboveFlags s 0 3).trans (extract_low _ 0#3)

theorem statusWord_state (s : State) : s.statusWord.extractLsb' 8 5 = s.state.code :=
  (statusWord_aboveFlags s 3 5).trans (extract_mid 0#19 s.state.code 0#3)

theorem statusWord_reservedHigh (s : State) : s.statusWord.extractLsb' 13 19 = 0#19 :=
  (statusWord_aboveFlags s 8 19).trans (extract_top 0#19 s.state.code 0#3 rfl)

theorem errWord_pre (e : Err) : e.word.getLsbD 0 = e.pre := getLsbD_lowBit _ e.pre

theorem errWord_ovr (e : Err) : e.word.getLsbD 1 = e.ovr := by
  rw [Err.word, getLsbD_appendFlag, getLsbD_lowBit]

theorem errWord_rsv (e : Err) : e.word.getLsbD 2 = e.rsv := by
  rw [Err.word, getLsbD_appendFlag, getLsbD_appendFlag, getLsbD_lowBit]

theorem errWord_bit3 (e : Err) : e.word.getLsbD 3 = false := by
  rw [Err.word, getLsbD_appendFlag, getLsbD_appendFlag, getLsbD_appendFlag]
  exact getLsbD_lowBit (0#24 ++ e.cause) false

/-- R27: the fields of `ERR` above its three flags. -/
theorem errWord_aboveFlags (e : Err) (k len : Nat) :
    e.word.extractLsb' (k + 3) len = (0#24 ++ e.cause ++ 0#1).extractLsb' k len := by
  rw [Err.word, extract_appendFlag, extract_appendFlag, extract_appendFlag]

theorem errWord_cause (e : Err) : e.word.extractLsb' 4 4 = e.cause :=
  (errWord_aboveFlags e 1 4).trans (extract_mid 0#24 e.cause 0#1)

theorem errWord_reserved (e : Err) : e.word.extractLsb' 8 24 = 0#24 :=
  (errWord_aboveFlags e 5 24).trans (extract_top 0#24 e.cause 0#1 rfl)

/-- The low three bits of a word are 0 when each of them is. -/
theorem extract_lowThree_eq_zero_iff (w : Word) :
    w.extractLsb' 0 3 = 0#3 ↔ w.getLsbD 0 = false ∧ w.getLsbD 1 = false ∧ w.getLsbD 2 = false := by
  rw [BitVec.eq_of_getElem_eq_iff]
  simp only [BitVec.getElem_extractLsb', Nat.zero_add, BitVec.getElem_zero, Nat.forall_lt_succ_right, Nat.not_lt_zero,
    false_implies, implies_true, true_and, and_assoc]

/-- R26: `ERRS` says that one of the three flags of `ERR` is set. -/
theorem errs_iff (s : State) : s.errs = true ↔ s.err.word.extractLsb' 0 3 ≠ 0#3 := by
  rw [Ne, extract_lowThree_eq_zero_iff, errWord_pre, errWord_ovr, errWord_rsv, State.errs]
  simp [or_iff_not_imp_left]

theorem busy_iff (s : State) : s.busy = true ↔ s.state ≠ .idle := by simp [State.busy]

theorem valid_iff (s : State) : s.valid = true ↔ s.frame.b0 = 0x19#8 := by simp [State.valid, Config.statusOk]

/-- Settles O23: `FRAME0` and `FRAME1` by the fields of a concatenation, the narrow registers by zero extension, and the
reserved offsets by `regView_reserved`. -/
theorem registerMapViews : Obligations.RegisterMapViews := by
  intro s
  exact ⟨word0_byte0 _, word0_byte1 _, word0_byte2 _, word0_byte3 _, word1_byte0 _, word1_byte1 _, word1_reserved _,
    zext32_toNat (by decide) _, zext32_toNat (by decide) _, rfl, rfl, rfl, zext32_toNat (by decide) _, rfl,
    regView_reserved s⟩

/-- Settles O24: each field is a bit or a slice of the concatenation that `STATUS` or `ERR` is. -/
theorem statusAndErrFields : Obligations.StatusAndErrFields := by
  intro s
  have hst : regView s 0x04#8 = s.statusWord := rfl
  have herr : regView s 0x08#8 = s.err.word := rfl
  rw [hst, herr, statusWord_busy, statusWord_valid, statusWord_errs]
  exact ⟨busy_iff s, statusWord_done s, statusWord_initd s, valid_iff s, errs_iff s, statusWord_reservedLow s,
    statusWord_state s, statusWord_reservedHigh s, errWord_pre _, errWord_ovr _, errWord_rsv _, errWord_bit3 _,
    errWord_cause _, errWord_reserved _⟩

/-! ## Data writes while idle -/

/-- R41, R121: the host write of a data register in an idle block. -/
theorem exec_dataWrite_of_idle {off : BitVec 8} {v : Word} {f : State → State} {s : State} (ha : wordAligned off = true)
    (hf : ∀ u, hostWriteEffect off v u = dataWrite f u) (h : s.state = .idle) :
    exec (.hostWrite off v) s = .next (f (logEvent (.hostWrite off v) s)) := by
  rcases dataWrite_cases f (logEvent (.hostWrite off v) s) with ⟨hbusy, -⟩ | ⟨-, e⟩
  · exact absurd h hbusy
  · rw [exec, execHostWrite, if_pos ha, hf, e]

theorem exec_writeFrame0_of_idle {s : State} (h : s.state = .idle) (v : Word) :
    exec (.hostWrite 0x0C#8 v) s
      = .next { s with frame := s.frame.setWord0 v, trace := s.trace ++ [.hostWrite 0x0C#8 v] } :=
  exec_dataWrite_of_idle (f := fun u => { u with frame := u.frame.setWord0 v }) rfl (fun _ => rfl) h

theorem exec_writeFrame1_of_idle {s : State} (h : s.state = .idle) (v : Word) :
    exec (.hostWrite 0x10#8 v) s
      = .next { s with frame := s.frame.setWord1 v, trace := s.trace ++ [.hostWrite 0x10#8 v] } :=
  exec_dataWrite_of_idle (f := fun u => { u with frame := u.frame.setWord1 v }) rfl (fun _ => rfl) h

theorem exec_writeHi_of_idle {s : State} (h : s.state = .idle) (v : Word) :
    exec (.hostWrite 0x24#8 v) s = .next { s with hi := v, trace := s.trace ++ [.hostWrite 0x24#8 v] } :=
  exec_dataWrite_of_idle (f := fun u => { u with hi := v }) rfl (fun _ => rfl) h

/-- Settles O25: the three data writes of an idle block. -/
theorem idleDataWriteLoadsRegister : Obligations.IdleDataWriteLoadsRegister := fun _ v h =>
  ⟨exec_writeFrame0_of_idle h v, exec_writeFrame1_of_idle h v, exec_writeHi_of_idle h v⟩

/-- Settles O30: the state a data write leaves, read through the frame words of what was written. -/
theorem dataWriteReadsBack : Obligations.DataWriteReadsBack := fun s v h =>
  ⟨⟨_, exec_writeFrame0_of_idle h v, setWord0_word0 s.frame v, setWord0_word1 s.frame v⟩,
    ⟨_, exec_writeFrame1_of_idle h v, setWord1_word1 s.frame v, setWord1_word0 s.frame v⟩,
    ⟨_, exec_writeHi_of_idle h v, rfl⟩⟩

/-! ## Reset -/

theorem step_of_reset {s : State} (h : (popTurn s).1 = .reset) : step s = .next (resetBlock (popTurn s).2) := by
  rw [step, h, takeTurn]

/-- Settles O11: a reset step answers `resetBlock`, whose elements are those of `State.reset`. -/
theorem resetGivesTableValues : Obligations.ResetGivesTableValues := by
  refine ⟨fun s h => ⟨_, step_of_reset h, ?_⟩, by decide⟩
  simp [State.reset]

/-! ## What a host write keeps -/

/-- R41, R66, R119: a property that holds before a host write's effect, after every error it can raise, after every load of
the frame or of `HI`, and after every acceptance, holds after the effect. -/
theorem hostWriteEffect_keeps {P : State → Prop} {s : State} (off : BitVec 8) (v : Word) (h : P s)
    (herr : ∀ c, P (raiseError c s)) (hframe : ∀ f, P { s with frame := f }) (hhi : ∀ w, P { s with hi := w })
    (hacc : ∀ c, c ≠ 0#3 → c ≠ 7#3 → ((c = 2#3 ∨ c = 6#3) → s.initd = true) → P (accept c s)) :
    P (hostWriteEffect off v s) := by
  have hcmd : P (commandIssue (cmdField v) s) := by
    rcases commandIssue_cases (cmdField v) s with
      ⟨-, e⟩ | ⟨-, -, e⟩ | ⟨-, -, e⟩ | ⟨-, -, e⟩ | ⟨h0, h7, -, hbound, -, e⟩ <;> rw [e]
    · exact h
    · exact herr .ovr
    · exact herr .rsv
    · exact herr .pre
    · exact hacc _ h0 h7 hbound
  rcases hostWriteEffect_cases off v s with
    ⟨-, e⟩ | ⟨-, -, e⟩ | ⟨-, -, e⟩ | ⟨-, -, e⟩ | ⟨-, -, e⟩ | ⟨-, -, -, -, e⟩ <;> rw [e]
  · exact hcmd
  · exact herr .ovr
  · exact hframe _
  · exact hframe _
  · exact hhi v
  · exact h

/-! ## The protocol invariant -/

/-- The part of `ProtocolInv` that is about the FSM state, the command being run and the session only. -/
def CommandFits (cmd : BitVec 3) (initd : Bool) (st : FsmState) : Prop :=
  (∀ k, st ≠ .unused k) ∧ cmdRuns cmd st ∧ (st.inInit = true ∨ st.inRead = true → initd = true)

theorem protocolInv_iff (s : State) : ProtocolInv s ↔
    CommandFits s.cmd s.initd s.state ∧ s.req = reqOf s.state ∧ (s.req = none → s.cpl = none) := by
  unfold ProtocolInv CommandFits
  tauto

/-! R79: where the successor of a state can come from. Each is read off the table of `nextState`, state by state. -/

theorem inInit_of_nextState (st : FsmState) (cmd : BitVec 3) : (nextState st cmd).inInit = true → st.inInit = true := by
  cases st with
  | unused k => exact id
  | _ => revert cmd; decide

theorem inRead_of_nextState (st : FsmState) (cmd : BitVec 3) : (nextState st cmd).inRead = true → st.inRead = true := by
  cases st with
  | unused k => exact id
  | _ => revert cmd; decide

theorem eq_unused_of_nextState (st : FsmState) (cmd : BitVec 3) (k : Fin 4) :
    nextState st cmd = .unused k → st = .unused k := by
  cases st with
  | unused j => exact id
  | _ => revert cmd k; decide

theorem cmd_of_nextState_dec (st : FsmState) (cmd : BitVec 3) : nextState st cmd = .dec → cmd = 6#3 := by
  cases st with
  | unused k => exact nofun
  | _ => revert cmd; decide

theorem cmd_of_nextState_hic (st : FsmState) (cmd : BitVec 3) : nextState st cmd = .hic → cmd = 6#3 := by
  cases st with
  | unused k => exact nofun
  | _ => revert cmd; decide

theorem eq_hic_of_nextState_cls (st : FsmState) (cmd : BitVec 3) : nextState st cmd = .cls → st = .hic := by
  cases st with
  | unused k => exact nofun
  | _ => revert cmd; decide

/-- R79: the command being run fits the successor of a state it fits. -/
theorem commandFits_nextState {cmd : BitVec 3} {initd : Bool} {st : FsmState} (h : CommandFits cmd initd st) :
    CommandFits cmd initd (nextState st cmd) := by
  obtain ⟨hused, ⟨hinit, hread, -, hhic, -⟩, hbound⟩ := h
  refine ⟨fun k e => hused k (eq_unused_of_nextState st cmd k e), ⟨?init, ?read, ?dec, ?hic, ?cls⟩, ?bound⟩
  case init => exact fun e => hinit (inInit_of_nextState st cmd e)
  case read => exact fun e => hread (inRead_of_nextState st cmd e)
  case dec => exact fun e => .inr (cmd_of_nextState_dec st cmd e)
  case hic => exact fun e => .inr (cmd_of_nextState_hic st cmd e)
  case cls => exact fun e => (hhic (eq_hic_of_nextState_cls st cmd e)).imp_right .inr
  case bound => exact fun e => hbound (e.imp (inInit_of_nextState st cmd) (inRead_of_nextState st cmd))

/-- R66, R67: an accepted command fits the first state it runs in. -/
theorem commandFits_firstState {c : BitVec 3} {initd : Bool} (h0 : c ≠ 0#3) (h7 : c ≠ 7#3)
    (hbound : (c = 2#3 ∨ c = 6#3) → initd = true) : CommandFits c (initd || c == 1#3) (firstState c) := by
  unfold CommandFits cmdRuns
  revert c initd
  decide

/-- R78: an entry sets `req` and `cpl` as the invariant wants them. -/
theorem protocolInv_enter {st : FsmState} {s : State} (h : CommandFits s.cmd s.initd st) :
    ProtocolInv (enter st s) := by
  rw [protocolInv_iff, enter_cmd, enter_initd, enter_state, enter_req, enter_cpl]
  exact ⟨h, rfl, fun _ => rfl⟩

/-- R79: the FSM's entry into the next state, whatever registers its step wrote. -/
theorem protocolInv_enter_next {s u : State} {st : FsmState} (h : ProtocolInv s) (hst : nextState s.state s.cmd = st)
    (hcmd : u.cmd = s.cmd) (hinitd : u.initd = s.initd) : ProtocolInv (enter st u) := by
  obtain ⟨hfit, -, -⟩ := (protocolInv_iff s).1 h
  rw [← hst]
  exact protocolInv_enter (by rw [hcmd, hinitd]; exact commandFits_nextState hfit)

theorem protocolInv_accept {c : BitVec 3} {s : State} (h0 : c ≠ 0#3) (h7 : c ≠ 7#3)
    (hbound : (c = 2#3 ∨ c = 6#3) → s.initd = true) : ProtocolInv (accept c s) :=
  protocolInv_enter (commandFits_firstState h0 h7 hbound)

theorem protocolInv_hostWriteEffect {s : State} (off : BitVec 8) (v : Word) (h : ProtocolInv s) :
    ProtocolInv (hostWriteEffect off v s) :=
  hostWriteEffect_keeps off v h (fun _ => h) (fun _ => h) (fun _ => h) fun _ => protocolInv_accept

theorem protocolInv_complete {r : Request} {s : State} (h : ProtocolInv s) (hr : s.req = some r) (d : Byte) :
    ProtocolInv (complete r d s) := by
  obtain ⟨hfit, hreq, -⟩ := (protocolInv_iff s).1 h
  exact (protocolInv_iff _).2 ⟨hfit, hreq, fun hn => by simp [hr] at hn⟩

theorem protocolInv_drawByte {s : State} (h : ProtocolInv s) : ProtocolInv (drawByte s).2 := by
  simpa [ProtocolInv] using h

theorem protocolInv_reset : ProtocolInv State.reset := by
  unfold ProtocolInv cmdRuns
  decide

theorem moved_keeps_protocolInv {a : Turn} {s t : State} (m : Moved s a t) (h : ProtocolInv s) : ProtocolInv t := by
  cases m with
  | hold => exact h
  | read => exact h
  | wrote hs off v => exact protocolInv_hostWriteEffect off v h
  | bus op arg ack _ hr =>
    split
    · exact protocolInv_complete (protocolInv_drawByte h) ((drawByte_req s).trans hr) _
    · exact protocolInv_complete h hr _
  | tmr n _ hr => exact protocolInv_complete h hr _
  | consume d => exact protocolInv_enter_next h rfl (by simp) (by simp)
  | dec hst => exact protocolInv_enter_next h (by rw [hst]) rfl rfl
  | hic hst => exact protocolInv_enter_next h (by rw [hst]; rfl) rfl rfl
  | cls hst => exact protocolInv_enter_next h (by rw [hst]; rfl) rfl rfl
  | reset => exact protocolInv_reset
  | busHang => exact h
  | tmrHang => exact h

/-- Settles O48, by the shapes a step can have. -/
theorem stepKeepsProtocolInv : Obligations.StepKeepsProtocolInv := by
  intro s t h e
  obtain ⟨ts, n, m⟩ := step_moved e
  exact moved_keeps_protocolInv m h

/-! ## The ranges of the results and the invariant of `ERR` -/

theorem record_cause_of_recorded {e : Err} (h : e.cause ≠ 0#4) (c : ErrCause) : (e.record c).cause = e.cause := if_neg h

/-- R119: recording an error keeps the invariant. The first error sets the cause and its bit, a later one only a bit. -/
theorem errInv_record {e : Err} (h : ErrInv e) (c : ErrCause) : ErrInv (e.record c) := by
  obtain ⟨hnone, hle, hpre, hovr, hrsv⟩ := h
  by_cases h0 : e.cause = 0#4
  · obtain ⟨hp, ho, hr⟩ := hnone.1 h0
    cases c <;> simp [ErrInv, Err.record, h0, hp, ho, hr, ErrCause.code]
  · refine ⟨?none, ?le, ?pre, ?ovr, ?rsv⟩ <;> rw [record_cause_of_recorded h0]
    case none =>
      exact iff_of_false h0 fun ⟨hp, ho, hr⟩ => h0 (hnone.2
        ⟨(Bool.or_eq_false_iff.1 hp).1, (Bool.or_eq_false_iff.1 ho).1, (Bool.or_eq_false_iff.1 hr).1⟩)
    case le => exact hle
    case pre => exact fun hc => by simp [Err.record, hpre hc]
    case ovr => exact fun hc => by simp [Err.record, hovr hc]
    case rsv => exact fun hc => by simp [Err.record, hrsv hc]

theorem centiTemp_bounds (tr : BitVec 20) : -5000 ≤ centiTemp tr ∧ centiTemp tr ≤ 14999 := by
  have := tr.isLt
  unfold centiTemp
  omega

theorem humPercent_le (hr : BitVec 20) : humPercent hr ≤ 99 := by
  have := hr.isLt
  unfold humPercent
  omega

theorem s32_wrap32 {n : Int} (hlo : -2 ^ 31 ≤ n) (hhi : n < 2 ^ 31) : s32 (wrap32 n) = n :=
  BitVec.toInt_ofInt_eq_self (by decide) hlo hhi

theorem bandCode_ne_six (b : ComfortBand) : b.code ≠ 6#3 := by
  cases b <;> decide

/-- R106, R107: what DEC writes is in range. -/
theorem resultInv_decodeFrame {s : State} (h : ResultInv s) : ResultInv (decodeFrame s) := by
  obtain ⟨-, -, -, hband⟩ := h
  obtain ⟨hlo, hhi⟩ := centiTemp_bounds (tempRaw s.frame)
  have hhum := humPercent_le (humidRaw s.frame)
  have htemp : s32 (decodeFrame s).temp = centiTemp (tempRaw s.frame) := s32_wrap32 (by omega) (by omega)
  refine ⟨htemp ▸ hlo, htemp ▸ hhi, ?_, hband⟩
  rw [decodeFrame_hum, BitVec.toNat_ofNat]
  omega

/-- R115: CLS writes the code of a band. -/
theorem resultInv_writeBand {s : State} (h : ResultInv s) : ResultInv (writeBand s) := by
  obtain ⟨hlo, hhi, hhum, -⟩ := h
  exact ⟨hlo, hhi, hhum, bandCode_ne_six _⟩

/-- The two invariants of O49 side by side. -/
def ResultAndErrInv (s : State) : Prop := ResultInv s ∧ ErrInv s.err

/-- They speak of `TEMP`, `HUM`, `BAND` and `ERR` only. -/
theorem resultAndErrInv_of_eq {s t : State} (h : ResultAndErrInv s) (htemp : t.temp = s.temp) (hhum : t.hum = s.hum)
    (hband : t.band = s.band) (herr : t.err = s.err) : ResultAndErrInv t := by
  rw [ResultAndErrInv, ResultInv, htemp, hhum, hband, herr]
  exact h

theorem resultAndErrInv_enter {s : State} (h : ResultAndErrInv s) (st : FsmState) : ResultAndErrInv (enter st s) :=
  resultAndErrInv_of_eq h (enter_temp st s) (enter_hum st s) (enter_band st s) (enter_err st s)

theorem resultAndErrInv_accept {s : State} (h : ResultAndErrInv s) (c : BitVec 3) : ResultAndErrInv (accept c s) :=
  resultAndErrInv_of_eq h (enter_temp _ _) (enter_hum _ _) (enter_band _ _) (enter_err _ _)

theorem resultAndErrInv_hostWriteEffect {s : State} (off : BitVec 8) (v : Word) (h : ResultAndErrInv s) :
    ResultAndErrInv (hostWriteEffect off v s) :=
  hostWriteEffect_keeps off v h (fun c => ⟨h.1, errInv_record h.2 c⟩) (fun _ => h) (fun _ => h) fun c _ _ _ =>
    resultAndErrInv_accept h c

theorem resultInv_reset : ResultInv State.reset := by
  unfold ResultInv
  decide

theorem errInv_reset : ErrInv State.reset.err := by
  unfold ErrInv
  decide

theorem moved_keeps_resultAndErrInv {a : Turn} {s t : State} (m : Moved s a t) (h : ResultAndErrInv s) :
    ResultAndErrInv t := by
  cases m with
  | hold => exact h
  | read => exact h
  | wrote hs off v => exact resultAndErrInv_hostWriteEffect off v h
  | bus =>
    split
    · exact resultAndErrInv_of_eq h (drawByte_temp s) (drawByte_hum s) (drawByte_band s) (drawByte_err s)
    · exact h
  | tmr => exact h
  | consume d =>
    exact resultAndErrInv_enter (resultAndErrInv_of_eq h (readEffect_temp _ d s) (readEffect_hum _ d s)
      (readEffect_band _ d s) (readEffect_err _ d s)) _
  | dec => exact resultAndErrInv_enter (s := decodeFrame s) ⟨resultInv_decodeFrame h.1, h.2⟩ _
  | hic => exact resultAndErrInv_enter (s := writeHeatIndex Config.hiPoly s) h _
  | cls => exact resultAndErrInv_enter (s := writeBand s) ⟨resultInv_writeBand h.1, h.2⟩ _
  | reset => exact ⟨resultInv_reset, errInv_reset⟩
  | busHang => exact h
  | tmrHang => exact h

/-- Settles O49, by the shapes a step can have. -/
theorem stepKeepsResultAndErrInv : Obligations.StepKeepsResultAndErrInv := by
  intro s t hres herr e
  obtain ⟨ts, n, m⟩ := step_moved e
  exact moved_keeps_resultAndErrInv m ⟨hres, herr⟩

/-- Settles O47: an empty history has issued nothing and left nothing outstanding. -/
theorem invariantsHoldAtReset : Obligations.InvariantsHoldAtReset :=
  ⟨protocolInv_reset, errInv_reset, resultInv_reset, List.nil_suffix, rfl, ⟨rfl, rfl, rfl⟩, rfl⟩

end Sys2Proof.Machine
end

section
/-! SUPPORT. The block's memory map and its ordering (20_memory.md): what a host access does, what the step of each agent
runs, and what a step can change: the port's history, the data registers, the FSM's elements. -/

namespace Sys2Proof.Machine

/-! ## Host accesses -/

theorem exec_hostWrite {off : BitVec 8} (ha : wordAligned off = true) (v : Word) (s : State) :
    exec (.hostWrite off v) s = .next (hostWriteEffect off v (logEvent (.hostWrite off v) s)) := if_pos ha

theorem eq_of_exec_hostWrite {s t : State} {off : BitVec 8} {v : Word} (e : exec (.hostWrite off v) s = .next t) :
    t = hostWriteEffect off v (logEvent (.hostWrite off v) s) := by
  simp only [exec, execHostWrite] at e
  split at e <;> cases e
  rfl

/-- R121: a data write that finds the block busy raises `OVR`. -/
theorem hostWriteEffect_data_of_busy {s : State} {off : BitVec 8} (hoff : off = 0x0C#8 ∨ off = 0x10#8 ∨ off = 0x24#8)
    (hbusy : s.state ≠ .idle) (v : Word) : hostWriteEffect off v s = raiseError .ovr s := by
  rcases hoff with rfl | rfl | rfl <;> exact if_pos hbusy

/-- R41: offsets other than those of the four writable registers take no write. -/
theorem hostWriteEffect_readOnly {off : BitVec 8} (hctrl : off ≠ 0x00#8) (hframe0 : off ≠ 0x0C#8)
    (hframe1 : off ≠ 0x10#8) (hhi : off ≠ 0x24#8) (v : Word) (s : State) : hostWriteEffect off v s = s := by
  unfold hostWriteEffect
  split
  case h_5 => rfl
  all_goals contradiction

/-- R119: recording an overrun. -/
theorem record_ovr (e : Err) :
    e.record .ovr = { e with ovr := true, cause := if e.cause = 0#4 then 2#4 else e.cause } := by
  simp [Err.record, ErrCause.code]

/-- Settles O28: both sides are the write of the word to `CTRL`. -/
theorem ctrlWriteIssuesCommand : Obligations.CtrlWriteIssuesCommand := fun s v =>
  (exec_hostWrite rfl v s).trans (exec_of_ctrl v s).symm

/-- Settles O27: a write that has no effect leaves its event only. -/
theorem readOnlyWriteIgnored : Obligations.ReadOnlyWriteIgnored := by
  intro s off v ha hctrl hframe0 hframe1 hhi
  rw [exec_hostWrite ha, hostWriteEffect_readOnly hctrl hframe0 hframe1 hhi]
  rfl

/-- Settles O26: the dropped write is `raiseError` of an overrun, after the event. -/
theorem busyDataWriteRecordsOverrun : Obligations.BusyDataWriteRecordsOverrun := by
  intro s off v hoff hbusy
  have ha : wordAligned off = true := by rcases hoff with rfl | rfl | rfl <;> rfl
  rw [exec_hostWrite ha, hostWriteEffect_data_of_busy hoff (by rwa [logEvent_state]), raiseError, logEvent_err,
    record_ovr]
  rfl

/-- R40: an aligned host read only records its event. -/
theorem exec_hostRead {off : BitVec 8} (ha : wordAligned off = true) (lanes : Word) (s : State) :
    exec (.hostRead off lanes) s = .next (logEvent (.hostRead off (regView s off)) s) := if_pos ha

/-- The views do not show the history. -/
theorem regView_logEvent (e : Event) (s : State) (off : BitVec 8) : regView (logEvent e s) off = regView s off := rfl

/-- Settles O22: a read is one event of the history, which no view shows. -/
theorem hostReadHasNoSideEffect : Obligations.HostReadHasNoSideEffect := by
  intro s off lanes ha
  refine ⟨exec_hostRead ha lanes s, ?zero, ?again⟩
  case zero =>
    rintro (rfl | hres)
    · rfl
    · exact regView_reserved s off hres
  case again =>
    intro t e
    cases (exec_hostRead ha lanes s).symm.trans e
    exact regView_logEvent _ s off

/-! ## The frame of a host write -/

/-- What no host write touches (R41): the registers of the decoder and the classifier, and the environment. -/
def HostWriteKeeps (s t : State) : Prop :=
  t.rawh = s.rawh ∧ t.rawt = s.rawt ∧ t.temp = s.temp ∧ t.hum = s.hum ∧ t.band = s.band
    ∧ t.turns = s.turns ∧ t.host = s.host ∧ t.sensor = s.sensor ∧ t.drawn = s.drawn
    ∧ t.busHung = s.busHung ∧ t.tmrHung = s.tmrHung

theorem hostWriteKeeps_refl (s : State) : HostWriteKeeps s s :=
  ⟨rfl, rfl, rfl, rfl, rfl, rfl, rfl, rfl, rfl, rfl, rfl⟩

theorem hostWriteKeeps_accept (c : BitVec 3) (s : State) : HostWriteKeeps s (accept c s) := by
  simp [HostWriteKeeps, accept]

theorem hostWriteKeeps_hostWriteEffect (off : BitVec 8) (v : Word) (s : State) :
    HostWriteKeeps s (hostWriteEffect off v s) :=
  hostWriteEffect_keeps off v (hostWriteKeeps_refl s) (fun _ => hostWriteKeeps_refl s) (fun _ => hostWriteKeeps_refl s)
    (fun _ => hostWriteKeeps_refl s) fun c _ _ _ => hostWriteKeeps_accept c s

/-- R66, R67: a command issue writes no data register. -/
theorem commandIssue_frame_hi (c : BitVec 3) (s : State) :
    (commandIssue c s).frame = s.frame ∧ (commandIssue c s).hi = s.hi := by
  rcases commandIssue_cases c s with ⟨-, e⟩ | ⟨-, -, e⟩ | ⟨-, -, e⟩ | ⟨-, -, e⟩ | ⟨-, -, -, -, -, e⟩ <;> rw [e]
  iterate 4 exact ⟨rfl, rfl⟩
  exact ⟨enter_frame _ _, enter_hi _ _⟩

/-- R41: `frame` and `HI` change only through their own offsets, and only while idle. -/
theorem hostWriteEffect_frame_hi (off : BitVec 8) (v : Word) (s : State) :
    ((hostWriteEffect off v s).frame ≠ s.frame → (off = 0x0C#8 ∨ off = 0x10#8) ∧ s.state = .idle)
      ∧ (off ≠ 0x0C#8 → (hostWriteEffect off v s).frame.word0 = s.frame.word0)
      ∧ (off ≠ 0x10#8 → (hostWriteEffect off v s).frame.word1 = s.frame.word1)
      ∧ ((hostWriteEffect off v s).hi ≠ s.hi → off = 0x24#8 ∧ s.state = .idle) := by
  rcases hostWriteEffect_cases off v s with
    ⟨-, e⟩ | ⟨-, -, e⟩ | ⟨hoff, hidle, e⟩ | ⟨hoff, hidle, e⟩ | ⟨hoff, hidle, e⟩ | ⟨-, -, -, -, e⟩ <;> rw [e]
  · obtain ⟨hf, hh⟩ := commandIssue_frame_hi (cmdField v) s
    rw [hf, hh]
    exact ⟨absurd rfl, fun _ => rfl, fun _ => rfl, absurd rfl⟩
  · exact ⟨absurd rfl, fun _ => rfl, fun _ => rfl, absurd rfl⟩
  · exact ⟨fun _ => ⟨.inl hoff, hidle⟩, fun h => absurd hoff h, fun _ => rfl, absurd rfl⟩
  · exact ⟨fun _ => ⟨.inr hoff, hidle⟩, fun _ => rfl, fun h => absurd hoff h, absurd rfl⟩
  · exact ⟨absurd rfl, fun _ => rfl, fun _ => rfl, fun _ => ⟨hoff, hidle⟩⟩
  · exact ⟨absurd rfl, fun _ => rfl, fun _ => rfl, absurd rfl⟩

/-- R41: a write past `CTRL` reaches `ERR`, `frame` and `HI` only. -/
theorem hostWriteEffect_of_ne_ctrl {off : BitVec 8} (h : off ≠ 0x00#8) (v : Word) (s : State) :
    ∃ e f w, hostWriteEffect off v s = { s with err := e, frame := f, hi := w } := by
  rcases hostWriteEffect_cases off v s with
    ⟨h0, -⟩ | ⟨-, -, e⟩ | ⟨-, -, e⟩ | ⟨-, -, e⟩ | ⟨-, -, e⟩ | ⟨-, -, -, -, e⟩
  · exact absurd h0 h
  all_goals exact ⟨_, _, _, e⟩

theorem issues_append_hostWrite (es : List Event) (off : BitVec 8) (v : Word) :
    issues (es ++ [.hostWrite off v]) = issues es := by
  rw [issues_append]
  exact List.append_nil _

/-- R41: an offset that can raise an error is one of the four writable ones. -/
theorem writable_of_err_ne {off : BitVec 8} {v : Word} {s : State} (h : (hostWriteEffect off v s).err ≠ s.err) :
    off = 0x00#8 ∨ off = 0x0C#8 ∨ off = 0x10#8 ∨ off = 0x24#8 := by
  by_contra hro
  obtain ⟨h0, h1, h2, h3⟩ : off ≠ 0x00#8 ∧ off ≠ 0x0C#8 ∧ off ≠ 0x10#8 ∧ off ≠ 0x24#8 := by simpa using hro
  exact h (by rw [hostWriteEffect_readOnly h0 h1 h2 h3])

/-- Settles O31: the event of the write first, then its effect. -/
theorem hostWriteFrame : Obligations.HostWriteFrame := by
  intro s t off v e
  obtain rfl := eq_of_exec_hostWrite e
  obtain ⟨hrawh, hrawt, htemp, hhum, hband, hturns, hhost, hsensor, hdrawn, hbus, htmr⟩ :=
    hostWriteKeeps_hostWriteEffect off v (logEvent (.hostWrite off v) s)
  obtain ⟨hframe, hword0, hword1, hhi⟩ := hostWriteEffect_frame_hi off v (logEvent (.hostWrite off v) s)
  refine ⟨hrawh, hrawt, htemp, hhum, hband, hturns, hhost, hsensor, hdrawn, hbus, htmr, hframe, hword0, hword1, hhi,
    fun hctrl => ?_, writable_of_err_ne⟩
  obtain ⟨_, _, _, heff⟩ := hostWriteEffect_of_ne_ctrl hctrl v (logEvent (.hostWrite off v) s)
  rw [heff]
  exact ⟨rfl, rfl, rfl, rfl, rfl, rfl, issues_append_hostWrite s.trace off v⟩

/-! ## What an agent's step runs -/

theorem runFetched_of_decode {d : Datum} {i : Instr} (h : decode d = .ok i) (s : State) :
    runFetched d s = exec i s := by
  rw [runFetched, h]

/-- R65: whether a POLL is done with does not depend on the schedule. -/
theorem finished_popTurn (op : HostOp) (s : State) : op.finished (popTurn s).2 = op.finished s := by
  obtain ⟨ts, n, h⟩ := popTurn_eq s
  rw [h]
  rfl

theorem hostTurn_of_decode {s : State} {op : HostOp} {rest : List HostOp} {d : Datum} {i : Instr}
    (hh : s.host = op :: rest) (hd : op.datum = .ok d) (hi : decode d = .ok i) :
    hostTurn s = exec i { s with host := if op.finished s = true then rest else op :: rest } := by
  simp only [hostTurn, hh, hd, runFetched_of_decode hi]
  split
  · rfl
  · rw [← hh]

/-- R77: the datums that decode at the FSM are the three datapath states. -/
theorem datapath_of_decode {st : FsmState} {i : Instr} (h : decode (.fsmstate st.code) = .ok i) :
    st = .dec ∨ st = .hic ∨ st = .cls := by
  rw [← ofCode_code st]
  simp only [decode, decodeFsmstate] at h
  split at h
  case isTrue hc => exact .inl (by rw [hc]; rfl)
  split at h
  case isTrue hc => exact .inr (.inl (by rw [hc]; rfl))
  split at h
  case isTrue hc => exact .inr (.inr (by rw [hc]; rfl))
  case isFalse => cases h

theorem fsmTurn_of_decode {s : State} {i : Instr} (h : decode (.fsmstate s.state.code) = .ok i) :
    fsmTurn s = exec i s := by
  rw [← runFetched_of_decode h]
  rcases datapath_of_decode h with hst | hst | hst <;> simp only [fsmTurn, hst]

theorem step_of_turn {s : State} {a : Turn} (h : (popTurn s).1 = a) : step s = takeTurn a (popTurn s).2 := by
  rw [step, h]

/-- Settles O6: each agent's turn, with what it fetches in the state the schedule leaves. -/
theorem stepRunsDecodedInstruction : Obligations.StepRunsDecodedInstruction := by
  refine ⟨?next, ?free, ?host, ?bus, ?tmr, ?fsm⟩
  case next =>
    intro s a ts h
    rw [popTurn, h]
  case free =>
    intro s h
    rw [popTurn, h]
  case host =>
    intro s op rest d i ha hh hd hi
    rw [step_of_turn ha, takeTurn, hostTurn_of_decode ((popTurn_host s).trans hh) hd hi, finished_popTurn]
  case bus =>
    intro s op arg ack i ha hr hc hhung hi
    rw [step_of_turn ha]
    simp [takeTurn, busTurn, hr, hc, hhung, Request.datum, runFetched_of_decode hi]
  case tmr =>
    intro s n ha hr hc hhung
    rw [step_of_turn ha]
    simp [takeTurn, tmrTurn, hr, hc, hhung, Request.datum, runFetched_of_decode (d := .dlyop n) rfl]
  case fsm =>
    intro s i ha hi
    rw [step_of_turn ha]
    exact fsmTurn_of_decode (by rw [popTurn_state]; exact hi)

/-! ## The port discipline -/

/-- R66, R121: a host write that finds the block busy has no effect, or raises `OVR`. -/
theorem hostWriteEffect_of_busy {s : State} (hbusy : s.state ≠ .idle) (off : BitVec 8) (v : Word) :
    hostWriteEffect off v s = s ∨ hostWriteEffect off v s = raiseError .ovr s := by
  rcases hostWriteEffect_cases off v s with
    ⟨-, e⟩ | ⟨-, -, e⟩ | ⟨-, hidle, -⟩ | ⟨-, hidle, -⟩ | ⟨-, hidle, -⟩ | ⟨-, -, -, -, e⟩
  · rw [e]
    rcases commandIssue_cases (cmdField v) s with
      ⟨-, e⟩ | ⟨-, -, e⟩ | ⟨-, hidle, -⟩ | ⟨hidle, -⟩ | ⟨-, -, hidle, -⟩
    · exact .inl e
    · exact .inr e
    all_goals exact absurd hidle hbusy
  · exact .inr e
  iterate 3 exact absurd hidle hbusy
  · exact .inl e

/-- The history, extended by one event, in the reading of R50. -/
theorem portInv_of_event {s t : State} {e : Event} (h : PortInv s) (htrace : t.trace = s.trace ++ [e])
    (hport : portEvent (some (outstanding s)) e = some (outstanding t)) : PortInv t := by
  rw [PortInv, htrace, List.foldl_append, h]
  exact hport

/-- `PortInv` speaks of the history and the port's two elements only. -/
theorem portInv_of_eq {s t : State} (h : PortInv s) (htrace : t.trace = s.trace) (hout : outstanding t = outstanding s) :
    PortInv t := by
  rw [PortInv, htrace, hout]
  exact h

/-- Host accesses are no events of the port. -/
theorem portEvent_hostRead (q : Option Request) (off : BitVec 8) (v : Word) :
    portEvent (some q) (.hostRead off v) = some q := by
  cases q <;> rfl

theorem portEvent_hostWrite (q : Option Request) (off : BitVec 8) (v : Word) :
    portEvent (some q) (.hostWrite off v) = some q := by
  cases q <;> rfl

theorem portInv_hostRead {s : State} (h : PortInv s) (off : BitVec 8) (v : Word) :
    PortInv (logEvent (.hostRead off v) s) :=
  portInv_of_event h rfl (portEvent_hostRead _ off v)

theorem portInv_hostWrite {s : State} (h : PortInv s) (off : BitVec 8) (v : Word) :
    PortInv (logEvent (.hostWrite off v) s) :=
  portInv_of_event h rfl (portEvent_hostWrite _ off v)

/-- R84, R85: completing the outstanding request leaves nothing outstanding. -/
theorem portInv_complete {s : State} {r : Request} (h : PortInv s) (hr : s.req = some r) (hc : s.cpl = none) (d : Byte) :
    PortInv (complete r d s) := by
  refine portInv_of_event h (complete_trace r d s) ?_
  simp [outstanding, hr, hc, portEvent]

/-- R78: with nothing outstanding, an entry issues the request of the state entered, or none. -/
theorem portInv_enter {s : State} (h : PortInv s) (hout : outstanding s = none) (st : FsmState) (u : State)
    (htrace : u.trace = s.trace) : PortInv (enter st u) := by
  have hout' : outstanding (enter st u) = reqOf st := by simp [outstanding]
  cases hreq : reqOf st with
  | none => exact portInv_of_eq h (by simp [hreq, htrace]) (by rw [hout', hreq, hout])
  | some r => exact portInv_of_event (e := .issue r) h (by simp [hreq, htrace]) (by rw [hout', hreq, hout]; rfl)

theorem outstanding_of_cpl {s : State} {d : Byte} (h : s.cpl = some d) : outstanding s = none := by
  simp [outstanding, h]

/-- R33: a block in a state without a request has nothing outstanding. -/
theorem outstanding_of_reqOf {s : State} (h : ProtocolInv s) (hst : reqOf s.state = none) : outstanding s = none := by
  obtain ⟨-, hreq, -⟩ := (protocolInv_iff s).1 h
  simp [outstanding, hreq, hst]

theorem portInv_hostWriteEffect {s : State} (off : BitVec 8) (v : Word) (hp : ProtocolInv s) (h : PortInv s) :
    PortInv (hostWriteEffect off v s) := by
  by_cases hidle : s.state = .idle
  · have hout : outstanding s = none := outstanding_of_reqOf hp (by rw [hidle]; rfl)
    exact hostWriteEffect_keeps off v h (fun _ => h) (fun _ => h) (fun _ => h) fun _ _ _ _ => portInv_enter h hout _ _ rfl
  · rcases hostWriteEffect_of_busy hidle off v with e | e <;> rw [e] <;> exact h

theorem moved_keeps_portInv {a : Turn} {s t : State} (m : Moved s a t) (hp : ProtocolInv s) (h : PortInv s) :
    PortInv t := by
  cases m with
  | hold => exact h
  | read hs off => exact portInv_hostRead (s := { s with host := hs }) h off _
  | wrote hs off v => exact portInv_hostWriteEffect off v hp (portInv_hostWrite (s := { s with host := hs }) h off v)
  | bus op arg ack _ hr hc =>
    split
    · have hdraw : PortInv (drawByte s).2 := portInv_of_eq h (drawByte_trace s) (by simp [outstanding])
      exact portInv_complete hdraw ((drawByte_req s).trans hr) ((drawByte_cpl s).trans hc) _
    · exact portInv_complete h hr hc _
  | tmr n _ hr hc => exact portInv_complete h hr hc _
  | consume d hc => exact portInv_enter h (outstanding_of_cpl hc) _ _ (readEffect_trace _ d s)
  | dec hst => exact portInv_enter h (outstanding_of_reqOf hp (by rw [hst]; rfl)) _ _ rfl
  | hic hst => exact portInv_enter h (outstanding_of_reqOf hp (by rw [hst]; rfl)) _ _ rfl
  | cls hst => exact portInv_enter h (outstanding_of_reqOf hp (by rw [hst]; rfl)) _ _ rfl
  | reset => rfl
  | busHang => exact h
  | tmrHang => exact h

/-- Settles O51, by the shapes a step can have. -/
theorem stepKeepsPortDiscipline : Obligations.StepKeepsPortDiscipline := by
  intro s t hp h e
  obtain ⟨ts, n, m⟩ := step_moved e
  exact moved_keeps_portInv m hp h

/-! ## Which step changes a data register -/

/-- The states `R_Bi` of R77, in which the FSM takes a byte of the frame. -/
def TakesByte (st : FsmState) : Prop :=
  st = .rB0 ∨ st = .rB1 ∨ st = .rB2 ∨ st = .rB3 ∨ st = .rB4 ∨ st = .rB5

/-- R51: when a step from `s` to `t`, moved by `a`, may have changed what. -/
def RegistersMove (a : Turn) (s t : State) : Prop :=
  (t.frame ≠ s.frame → (a = .host ∧ s.state = .idle) ∨ (a = .fsm ∧ s.cpl ≠ none ∧ TakesByte s.state))
    ∧ (t.rawh ≠ s.rawh ∨ t.rawt ≠ s.rawt ∨ t.temp ≠ s.temp ∨ t.hum ≠ s.hum → a = .fsm ∧ s.state = .dec)
    ∧ (t.hi ≠ s.hi → (a = .host ∧ s.state = .idle) ∨ (a = .fsm ∧ s.state = .hic))
    ∧ (t.band ≠ s.band → a = .fsm ∧ s.state = .cls)

/-- R81: a byte reaches the frame in the states `R_Bi` only. -/
theorem readEffect_of_not_takesByte {st : FsmState} (h : ¬ TakesByte st) (d : Byte) (s : State) :
    readEffect st d s = s := by
  unfold readEffect
  split
  case h_7 => rfl
  all_goals exact absurd (by simp [TakesByte]) h

theorem takesByte_of_frame_ne {st : FsmState} {d : Byte} {s : State} (h : (readEffect st d s).frame ≠ s.frame) :
    TakesByte st := by
  by_contra hno
  exact h (by rw [readEffect_of_not_takesByte hno])

theorem registersMove_refl (a : Turn) (s : State) : RegistersMove a s s :=
  ⟨absurd rfl, by simp, absurd rfl, absurd rfl⟩

/-- An entry writes no data register. -/
theorem registersMove_enter {a : Turn} {s u : State} (st : FsmState) (h : RegistersMove a s u) :
    RegistersMove a s (enter st u) := by
  simpa [RegistersMove] using h

theorem registersMove_hostWriteEffect (off : BitVec 8) (v : Word) (s : State) :
    RegistersMove .host s (hostWriteEffect off v s) := by
  obtain ⟨hrawh, hrawt, htemp, hhum, hband, -⟩ := hostWriteKeeps_hostWriteEffect off v s
  obtain ⟨hframe, -, -, hhi⟩ := hostWriteEffect_frame_hi off v s
  exact ⟨fun h => .inl ⟨rfl, (hframe h).2⟩, by simp [hrawh, hrawt, htemp, hhum], fun h => .inl ⟨rfl, (hhi h).2⟩,
    fun h => absurd hband h⟩

theorem moved_registersMove {a : Turn} {s t : State} (m : Moved s a t) (ha : a ≠ .reset) : RegistersMove a s t := by
  cases m with
  | hold => exact registersMove_refl _ s
  | read => exact registersMove_refl _ s
  | wrote hs off v => exact registersMove_hostWriteEffect off v _
  | bus =>
    split
    · simp [RegistersMove]
    · exact registersMove_refl _ s
  | tmr => exact registersMove_refl _ s
  | consume d hc =>
    refine registersMove_enter _ ⟨fun h => .inr ⟨rfl, ?_, takesByte_of_frame_ne h⟩, by simp, by simp, by simp⟩
    simp [hc]
  | dec hst => exact registersMove_enter (u := decodeFrame s) _ ⟨absurd rfl, fun _ => ⟨rfl, hst⟩, absurd rfl, absurd rfl⟩
  | hic hst =>
    exact registersMove_enter (u := writeHeatIndex Config.hiPoly s) _
      ⟨absurd rfl, by simp, fun _ => .inr ⟨rfl, hst⟩, absurd rfl⟩
  | cls hst => exact registersMove_enter (u := writeBand s) _ ⟨absurd rfl, by simp, absurd rfl, fun _ => ⟨rfl, hst⟩⟩
  | reset => exact absurd rfl ha
  | busHang => exact registersMove_refl _ s
  | tmrHang => exact registersMove_refl _ s

/-- Settles O52, by the shapes a step can have. -/
theorem registersChangeOnlyAtTheirSteps : Obligations.RegistersChangeOnlyAtTheirSteps := by
  intro s t ha e
  obtain ⟨ts, n, m⟩ := step_moved e
  exact (moved_registersMove m ha :)

/-! ## Which step moves the FSM -/

/-- R53: when a step from `s` to `t`, moved by `a`, may have moved the FSM, and where to from IDLE. -/
def FsmMoves (a : Turn) (s t : State) : Prop :=
  ((t.state ≠ s.state ∨ t.cmd ≠ s.cmd) → (a = .fsm ∧ s.state ≠ .idle) ∨ (a = .host ∧ s.state = .idle))
    ∧ (t.cmd ≠ s.cmd → a = .host) ∧ (s.state = .idle → t.state ≠ .idle → t.state = firstState t.cmd ∧ t.done = false)

theorem fsmMoves_of_eq {a : Turn} {s t : State} (hstate : t.state = s.state) (hcmd : t.cmd = s.cmd) :
    FsmMoves a s t :=
  ⟨fun h => h.elim (absurd hstate) (absurd hcmd), absurd hcmd, fun hidle h => absurd (hstate.trans hidle) h⟩

/-- R80, R82: an FSM step of a busy block keeps `cmd`. -/
theorem fsmMoves_of_busy {s t : State} (hbusy : s.state ≠ .idle) (hcmd : t.cmd = s.cmd) : FsmMoves .fsm s t :=
  ⟨fun _ => .inl ⟨rfl, hbusy⟩, absurd hcmd, fun hidle => absurd hidle hbusy⟩

/-- R67: an acceptance enters the command's first state with `DONE` cleared. -/
theorem fsmMoves_accept {s : State} (hidle : s.state = .idle) (c : BitVec 3) : FsmMoves .host s (accept c s) := by
  refine ⟨fun _ => .inr ⟨rfl, hidle⟩, fun _ => rfl, fun _ hleft => ?_⟩
  have hfirst : firstState c ≠ .idle := by simpa [accept] using hleft
  simp [accept, hfirst]

theorem fsmMoves_hostWriteEffect (off : BitVec 8) (v : Word) (s : State) :
    FsmMoves .host s (hostWriteEffect off v s) := by
  by_cases hidle : s.state = .idle
  · exact hostWriteEffect_keeps off v (fsmMoves_of_eq rfl rfl) (fun _ => fsmMoves_of_eq rfl rfl)
      (fun _ => fsmMoves_of_eq rfl rfl) (fun _ => fsmMoves_of_eq rfl rfl) fun c _ _ _ => fsmMoves_accept hidle c
  · rcases hostWriteEffect_of_busy hidle off v with e | e <;> rw [e] <;> exact fsmMoves_of_eq rfl rfl

theorem moved_fsmMoves {a : Turn} {s t : State} (m : Moved s a t) (ha : a ≠ .reset) : FsmMoves a s t := by
  cases m with
  | hold => exact fsmMoves_of_eq rfl rfl
  | read => exact fsmMoves_of_eq rfl rfl
  | wrote hs off v => exact fsmMoves_hostWriteEffect off v _
  | bus =>
    split
    · exact fsmMoves_of_eq (drawByte_state s) (drawByte_cmd s)
    · exact fsmMoves_of_eq rfl rfl
  | tmr => exact fsmMoves_of_eq rfl rfl
  | consume d _ hbusy => exact fsmMoves_of_busy hbusy (by simp [fsmReqStep])
  | dec hst => exact fsmMoves_of_busy (by simp [hst]) (enter_cmd _ _)
  | hic hst => exact fsmMoves_of_busy (by simp [hst]) (enter_cmd _ _)
  | cls hst => exact fsmMoves_of_busy (by simp [hst]) (enter_cmd _ _)
  | reset => exact absurd rfl ha
  | busHang => exact fsmMoves_of_eq rfl rfl
  | tmrHang => exact fsmMoves_of_eq rfl rfl

/-- Settles O54, by the shapes a step can have. -/
theorem commandsAcceptedOnlyInIdle : Obligations.CommandsAcceptedOnlyInIdle := by
  intro s t ha e
  obtain ⟨ts, n, m⟩ := step_moved e
  exact (moved_fsmMoves m ha :)

end Sys2Proof.Machine
end

section
/-! SUPPORT. The encoding of the commands (30_encoding.md): what a `CTRL` word's ignored bits can change, and the words the
spec writes out. -/

namespace Sys2Proof.Machine

/-- `f` appends to the history and does not read it: at each state, the events appended and everything else are the same
whatever the history holds. -/
def OnlyAppendsTrace (f : State → State) : Prop :=
  ∀ s : State, ∃ es : List Event, ∀ tr : List Event, f { s with trace := tr } = { f s with trace := tr ++ es }

theorem onlyAppendsTrace_id : OnlyAppendsTrace fun s => s :=
  fun _ => ⟨[], fun tr => by rw [List.append_nil]⟩

theorem onlyAppendsTrace_raiseError (c : ErrCause) : OnlyAppendsTrace (raiseError c) :=
  fun _ => ⟨[], fun tr => by rw [List.append_nil]; rfl⟩

/-- R78: an entry appends the event of the request it issues, if any. -/
theorem onlyAppendsTrace_enter (st : FsmState) : OnlyAppendsTrace (enter st) := by
  intro s
  unfold enter
  split
  · exact ⟨[], fun tr => by rw [List.append_nil]⟩
  split
  case h_1 r _ => exact ⟨[.issue r], fun _ => rfl⟩
  case h_2 => exact ⟨[], fun tr => by rw [List.append_nil]⟩

theorem onlyAppendsTrace_accept (c : BitVec 3) : OnlyAppendsTrace (accept c) :=
  fun s => onlyAppendsTrace_enter (firstState c) { s with cmd := c, done := false, initd := s.initd || c == 1#3 }

/-- A choice that does not look at the history, between two operations that append to it. -/
theorem onlyAppendsTrace_ite {p : State → Prop} [DecidablePred p] {f g : State → State}
    (hp : ∀ s tr, p { s with trace := tr } ↔ p s) (hf : OnlyAppendsTrace f) (hg : OnlyAppendsTrace g) :
    OnlyAppendsTrace fun s => if p s then f s else g s := by
  intro s
  by_cases h : p s
  · simpa only [hp, if_pos h] using hf s
  · simpa only [hp, if_neg h] using hg s

/-- R66: none of the checks of a command issue looks at the history. -/
theorem onlyAppendsTrace_commandIssue (c : BitVec 3) : OnlyAppendsTrace (commandIssue c) := by
  unfold commandIssue
  refine onlyAppendsTrace_ite (fun _ _ => .rfl) onlyAppendsTrace_id ?_
  refine onlyAppendsTrace_ite (fun _ _ => .rfl) (onlyAppendsTrace_raiseError .ovr) ?_
  refine onlyAppendsTrace_ite (fun _ _ => .rfl) (onlyAppendsTrace_raiseError .rsv) ?_
  refine onlyAppendsTrace_ite (fun _ _ => .rfl) (onlyAppendsTrace_raiseError .pre) ?_
  exact onlyAppendsTrace_ite (fun _ _ => .rfl) (onlyAppendsTrace_raiseError .pre) (onlyAppendsTrace_accept c)

/-- R41: a write to `CTRL` records its word, and then does what its `CMD` field alone selects. -/
theorem exec_decodeCtrl_of_appends {s : State} {w : Word} {es : List Event}
    (h : ∀ tr, commandIssue (cmdField w) { s with trace := tr }
      = { commandIssue (cmdField w) s with trace := tr ++ es }) :
    exec (decodeCtrl w) s
      = .next { commandIssue (cmdField w) s with trace := s.trace ++ .hostWrite 0x00#8 w :: es } := by
  rw [exec_of_ctrl, ctrlWrite, logEvent, h, List.append_assoc, List.singleton_append]

/-- Settles O5: past the event of the write, both runs are the issue of one command, which reads neither the word nor the
history it was recorded in. -/
theorem commandIgnoresHighBits : Obligations.CommandIgnoresHighBits := by
  intro s v w hcmd
  obtain ⟨es, hes⟩ := onlyAppendsTrace_commandIssue (cmdField w) s
  refine ⟨commandIssue (cmdField w) s, es, ?_, exec_decodeCtrl_of_appends hes⟩
  rw [← hcmd] at hes ⊢
  exact exec_decodeCtrl_of_appends hes

/-- Settles O3: the decoder evaluated at each of the twelve words. -/
theorem specWordsDecode : Obligations.SpecWordsDecode := by
  unfold Obligations.SpecWordsDecode
  decide

end Sys2Proof.Machine
end

section
/-! SUPPORT. The eight commands (40_commands.md): how the write of a command's word is answered, and the runs of the
commands that are accepted, from acceptance to IDLE. -/

namespace Sys2Proof.Machine

/-! ## How a command issue is answered -/

/-- R66, R121: anything but NOP that finds the block busy is an overrun. -/
theorem commandIssue_of_busy {c : BitVec 3} {s : State} (h0 : c ≠ 0#3) (hbusy : s.state ≠ .idle) :
    commandIssue c s = raiseError .ovr s := by
  rw [commandIssue, if_neg h0, if_pos hbusy]

theorem commandIssue_reserved_of_idle {s : State} (hidle : s.state = .idle) :
    commandIssue 7#3 s = raiseError .rsv s := by
  rw [commandIssue, if_neg (by decide), if_neg (not_not.2 hidle), if_pos rfl]

/-- R66, R67: a command that passes every check is accepted. -/
theorem commandIssue_of_accepted {c : BitVec 3} {s : State} (h0 : c ≠ 0#3) (h7 : c ≠ 7#3) (hidle : s.state = .idle)
    (hbound : c = 2#3 ∨ c = 6#3 → s.initd = true) (hfresh : c = 1#3 → s.initd = false) :
    commandIssue c s = accept c s := by
  rcases commandIssue_cases c s with ⟨h, -⟩ | ⟨-, h, -⟩ | ⟨h, -⟩ | ⟨-, ⟨hc, hu⟩ | ⟨hc, hi⟩, -⟩ | ⟨-, -, -, -, -, e⟩
  · exact absurd h h0
  · exact absurd hidle h
  · exact absurd h h7
  · exact absurd ((hbound hc).symm.trans hu) (by decide)
  · exact absurd (hi.symm.trans (hfresh hc)) (by decide)
  · exact e

/-- R67: an acceptance of another command than INIT leaves the session alone. -/
theorem accept_of_ne_init {c : BitVec 3} (h1 : c ≠ 1#3) (s : State) :
    accept c s = enter (firstState c) { s with cmd := c, done := false } := by
  rw [accept, beq_eq_false_iff_ne.2 h1, Bool.or_false]

/-- R67, R69: an accepted INIT binds the session. -/
theorem accept_init (s : State) :
    accept 1#3 s = enter .iStart { s with cmd := 1#3, done := false, initd := true } := by
  rw [accept, beq_self_eq_true, Bool.or_true]
  rfl

/-- R41: the write of a command's word records it, and then issues the command. -/
theorem ctrlWrite_ctrlWord (ign : BitVec 29) (c : BitVec 3) (s : State) :
    ctrlWrite (ctrlWord ign c) s = commandIssue c (logEvent (.hostWrite 0x00#8 (ctrlWord ign c)) s) := by
  rw [ctrlWrite, cmdField_ctrlWord]

theorem ctrlWrite_of_accepted {c : BitVec 3} {s : State} (h0 : c ≠ 0#3) (h7 : c ≠ 7#3) (hidle : s.state = .idle)
    (hbound : c = 2#3 ∨ c = 6#3 → s.initd = true) (hfresh : c = 1#3 → s.initd = false) (ign : BitVec 29) :
    ctrlWrite (ctrlWord ign c) s = accept c (logEvent (.hostWrite 0x00#8 (ctrlWord ign c)) s) :=
  (ctrlWrite_ctrlWord ign c s).trans (commandIssue_of_accepted h0 h7 hidle hbound hfresh)

theorem ctrlWrite_init {s : State} (hidle : s.state = .idle) (hfresh : s.initd = false) (ign : BitVec 29) :
    ctrlWrite (ctrlWord ign 1#3) s = enter .iStart { s with
      cmd := 1#3, done := false, initd := true, trace := s.trace ++ [.hostWrite 0x00#8 (ctrlWord ign 1#3)] } := by
  rw [ctrlWrite_of_accepted (by decide) (by decide) hidle (absurd · (by decide)) fun _ => hfresh, accept_init]
  rfl

theorem ctrlWrite_read {s : State} {c : BitVec 3} (hc : c = 2#3 ∨ c = 6#3) (hidle : s.state = .idle)
    (hbound : s.initd = true) (ign : BitVec 29) :
    ctrlWrite (ctrlWord ign c) s = enter .tStart { s with
      cmd := c, done := false, trace := s.trace ++ [.hostWrite 0x00#8 (ctrlWord ign c)] } := by
  obtain ⟨h0, h7, h1, hfirst⟩ : c ≠ 0#3 ∧ c ≠ 7#3 ∧ c ≠ 1#3 ∧ firstState c = .tStart := by
    rcases hc with rfl | rfl <;> decide
  rw [ctrlWrite_of_accepted h0 h7 hidle (fun _ => hbound) (absurd · h1), accept_of_ne_init h1, hfirst]
  rfl

/-- R71, R72, R73: the three commands that need no session. -/
theorem ctrlWrite_pure {s : State} {c : BitVec 3} (hc : c = 3#3 ∨ c = 4#3 ∨ c = 5#3) (hidle : s.state = .idle)
    (ign : BitVec 29) :
    ctrlWrite (ctrlWord ign c) s = enter (firstState c) { s with
      cmd := c, done := false, trace := s.trace ++ [.hostWrite 0x00#8 (ctrlWord ign c)] } := by
  obtain ⟨h0, h7, h1, hpure⟩ : c ≠ 0#3 ∧ c ≠ 7#3 ∧ c ≠ 1#3 ∧ ¬ (c = 2#3 ∨ c = 6#3) := by
    rcases hc with rfl | rfl | rfl <;> decide
  rw [ctrlWrite_of_accepted h0 h7 hidle (absurd · hpure) (absurd · h1), accept_of_ne_init h1]
  rfl

/-- R119: recording a reserved command. -/
theorem record_rsv (e : Err) :
    e.record .rsv = { e with rsv := true, cause := if e.cause = 0#4 then 3#4 else e.cause } := by
  simp [Err.record, ErrCause.code]

/-- Settles O18: with the block busy the second check of R66 decides. -/
theorem busyCommandRecordsOverrun : Obligations.BusyCommandRecordsOverrun := by
  intro s v hbusy h0
  rw [exec_of_ctrl, ctrlWrite, commandIssue_of_busy h0 (by rwa [logEvent_state]), raiseError, logEvent_err, record_ovr]
  rfl

/-- Settles O13: the first check of R66 lets NOP pass by. -/
theorem nopHasNoEffect : Obligations.NopHasNoEffect := by
  refine fun s ign => ⟨by simp [decodeCtrl], ?_⟩
  rw [exec, execNop, ctrlWrite_ctrlWord, commandIssue, if_pos rfl]
  rfl

/-- Settles O17: idle, the third check of R66 decides; busy, the reserved command is one more dropped command. -/
theorem reservedCommandRecordsError : Obligations.ReservedCommandRecordsError := by
  intro s ign
  have hdecode : decodeCtrl (ctrlWord ign 7#3) = .reserved ign := by simp [decodeCtrl]
  refine ⟨hdecode, fun hidle => ?idle, fun hbusy => ?busy⟩
  case idle =>
    rw [exec, execReserved, ctrlWrite_ctrlWord, commandIssue_reserved_of_idle (by rwa [logEvent_state]),
      raiseError, logEvent_err, record_rsv]
    rfl
  case busy =>
    rw [← hdecode]
    exact busyCommandRecordsOverrun s _ hbusy (by rw [cmdField_ctrlWord]; decide)

/-! ## The entry into a state -/

/-- R78: the entry into a request state issues its request. -/
theorem enter_of_request {st : FsmState} {r : Request} (h : reqOf st = some r) (s : State) :
    enter st s = { s with state := st, req := some r, cpl := none, trace := s.trace ++ [.issue r] } := by
  have hst : st ≠ .idle := by rintro rfl; cases h
  rw [enter, if_neg hst, h]

/-- R78: the entry into IDLE sets `DONE`. -/
theorem enter_idle (s : State) : enter .idle s = { s with state := .idle, req := none, cpl := none, done := true } :=
  rfl

/-- R78: an entry looks at none of the FSM's own elements `state`, `req` and `cpl`. -/
theorem enter_of_moved (st : FsmState) (s : State) (a : FsmState) (b : Option Request) (c : Option Byte) :
    enter st { s with state := a, req := b, cpl := c } = enter st s := by
  unfold enter
  split
  · rfl
  · split <;> rfl

/-- Settles O14: the entry into I_START. -/
theorem initBindsSessionAndStarts : Obligations.InitBindsSessionAndStarts := by
  intro s ign hidle hfresh
  rw [exec, execInit, ctrlWrite_init hidle hfresh, enter_of_request (r := reqStart) rfl, List.append_assoc]
  rfl

/-- Settles O15: the entry into T_START. -/
theorem readCommandsStartTrigger : Obligations.ReadCommandsStartTrigger := by
  intro s ign hidle hbound
  rw [exec, execReadRaw, ctrlWrite_read (.inl rfl) hidle hbound, exec, execMeasure,
    ctrlWrite_read (.inr rfl) hidle hbound, enter_of_request (r := reqStart) rfl, enter_of_request (r := reqStart) rfl,
    List.append_assoc, List.append_assoc]
  exact ⟨rfl, rfl⟩

/-- Settles O16: the entries into DEC, HIC and CLS, which issue nothing. -/
theorem pureCommandsEnterDatapath : Obligations.PureCommandsEnterDatapath := by
  intro s ign hidle
  rw [exec, execDecode, ctrlWrite_pure (.inl rfl) hidle, exec, execDerive, ctrlWrite_pure (.inr (.inl rfl)) hidle,
    exec, execClassify, ctrlWrite_pure (.inr (.inr rfl)) hidle]
  exact ⟨rfl, rfl, rfl⟩

/-! ## The frame of a command issue -/

theorem firstState_ne_idle {c : BitVec 3} : c ≠ 0#3 → c ≠ 7#3 → firstState c ≠ .idle := by
  revert c
  decide

/-- R66, R67: a command issue is an acceptance out of IDLE that leaves `ERR`, or moves nothing; only INIT binds a
session. -/
theorem commandIssue_accepts_or_holds (c : BitVec 3) (s : State) :
    (c ≠ 1#3 → (commandIssue c s).initd = s.initd)
      ∧ (((commandIssue c s).err = s.err ∧ s.state = .idle ∧ (commandIssue c s).cmd = c
          ∧ (commandIssue c s).done = false ∧ (commandIssue c s).state ≠ .idle)
        ∨ (∃ e, commandIssue c s = { s with err := e })) := by
  rcases commandIssue_cases c s with ⟨-, e⟩ | ⟨-, -, e⟩ | ⟨-, -, e⟩ | ⟨-, -, e⟩ | ⟨h0, h7, hidle, -, -, e⟩ <;> rw [e]
  iterate 4 exact ⟨fun _ => rfl, .inr ⟨_, rfl⟩⟩
  have hfirst := firstState_ne_idle h0 h7
  refine ⟨fun h1 => ?initd, .inl ⟨?err, hidle, ?cmd, ?done, ?state⟩⟩
  case initd => rw [accept_of_ne_init h1, enter_initd]
  all_goals simp [accept, hfirst]

/-- Settles O21: the write is recorded first, and then the command is issued. -/
theorem commandFrame : Obligations.CommandFrame := by
  intro s t v e
  obtain rfl : ctrlWrite v s = t := by rw [exec_of_ctrl] at e; cases e; rfl
  obtain ⟨hrawh, hrawt, htemp, hhum, hband, hturns, hhost, hsensor, hdrawn, hbus, htmr⟩ :=
    hostWriteKeeps_hostWriteEffect 0x00#8 v (logEvent (.hostWrite 0x00#8 v) s)
  obtain ⟨hframe, hhi⟩ := commandIssue_frame_hi (cmdField v) (logEvent (.hostWrite 0x00#8 v) s)
  obtain ⟨hinitd, hmoves⟩ := commandIssue_accepts_or_holds (cmdField v) (logEvent (.hostWrite 0x00#8 v) s)
  refine ⟨hframe, hrawh, hrawt, htemp, hhum, hhi, hband, hturns, hhost, hsensor, hdrawn, hbus, htmr, hinitd,
    hmoves.imp_right ?_⟩
  rintro ⟨_, hheld⟩
  rw [ctrlWrite, hheld]
  exact ⟨rfl, rfl, rfl, rfl, rfl, rfl, issues_append_hostWrite s.trace 0x00#8 v⟩

/-! ## The datapath states -/

/-- R82: the FSM's turn in DEC. -/
theorem step_enter_dec {s : State} {ts : List Turn} (ht : s.turns = .fsm :: ts) :
    step (enter .dec s) = .next (enter (nextState .dec s.cmd) (decodeFrame { s with turns := ts })) := by
  rw [step_of_turns ((enter_turns .dec s).trans ht), takeTurn, fsmTurn_of_decode (i := .dec) rfl]
  exact congrArg _ (enter_of_moved _ (decodeFrame { s with turns := ts }) .dec none none)

/-- R82, R112: the FSM's turn in HIC. -/
theorem step_enter_hic {s : State} {ts : List Turn} (ht : s.turns = .fsm :: ts) :
    step (enter .hic s) = .next (enter .cls (writeHeatIndex Config.hiPoly { s with turns := ts })) := by
  rw [step_of_turns ((enter_turns .hic s).trans ht), takeTurn, fsmTurn_of_decode (i := .hic) rfl]
  rfl

/-- R82, R115: the FSM's turn in CLS. -/
theorem step_enter_cls {s : State} {ts : List Turn} (ht : s.turns = .fsm :: ts) :
    step (enter .cls s) = .next (enter .idle (writeBand { s with turns := ts })) := by
  rw [step_of_turns ((enter_turns .cls s).trans ht), takeTurn, fsmTurn_of_decode (i := .cls) rfl]
  rfl

/-- HIC and then CLS, the two steps DERIVE and MEASURE end with. -/
theorem runSteps_enter_hic {s : State} {ts : List Turn} (n : Nat) (ht : s.turns = .fsm :: .fsm :: ts) :
    runSteps (n + 2) (enter .hic s)
      = runSteps n (enter .idle (writeBand (writeHeatIndex Config.hiPoly { s with turns := ts }))) := by
  rw [runSteps_succ _ (step_enter_hic ht), runSteps_succ _ (step_enter_cls rfl)]
  rfl

/-- The host's turn with a command next in its program. -/
theorem runSteps_command {s : State} {ts : List Turn} {w : Word} {hs : List HostOp} (n : Nat)
    (ht : s.turns = .host :: ts) (hh : s.host = .command w :: hs) :
    runSteps (n + 1) s = runSteps n (ctrlWrite w { s with turns := ts, host := hs }) :=
  runSteps_succ n (step_command ht hh)

/-- The host's turn with DECODE, DERIVE or CLASSIFY next. -/
theorem runSteps_pureCommand {s : State} {c : BitVec 3} {ign : BitVec 29} {ts : List Turn} {hs : List HostOp} (n : Nat)
    (hc : c = 3#3 ∨ c = 4#3 ∨ c = 5#3) (hidle : s.state = .idle) (ht : s.turns = .host :: ts)
    (hh : s.host = .command (ctrlWord ign c) :: hs) :
    runSteps (n + 1) s = runSteps n (enter (firstState c) { s with
      cmd := c, done := false, turns := ts, host := hs, trace := s.trace ++ [.hostWrite 0x00#8 (ctrlWord ign c)] }) := by
  rw [runSteps_command n ht hh, ctrlWrite_pure hc (by exact hidle)]

/-- Settles O57: the host's turn is the acceptance, and the turns that follow are those of the datapath states. -/
theorem pureCommandsRunToCompletion : Obligations.PureCommandsRunToCompletion := by
  intro s ign ts hs hidle
  refine ⟨fun ht hh => ?decode, fun ht hh => ?derive, fun ht hh => ?classify⟩
  case decode =>
    rw [runSteps_pureCommand 1 (.inl rfl) hidle ht hh, firstState, runSteps_succ 0 (step_enter_dec rfl)]
    simp [runSteps, nextState, enter_idle, hidle]
  case derive =>
    rw [runSteps_pureCommand 2 (.inr (.inl rfl)) hidle ht hh, firstState, runSteps_enter_hic 0 rfl]
    simp [runSteps, enter_idle, hidle]
  case classify =>
    rw [runSteps_pureCommand 1 (.inr (.inr rfl)) hidle ht hh, firstState, runSteps_succ 0 (step_enter_cls rfl)]
    simp [runSteps, enter_idle, hidle]

/-! ## The runs that use the bus -/

/-- A round of a run: the request state it begins in, and the byte its completion carries. -/
structure Round where
  st : FsmState
  byte : Byte

/-- R84: whether a state's request is a READ. -/
def readsByte (st : FsmState) : Bool :=
  match reqOf st with
  | some (.bus op _ _) => op == 5#3
  | _ => false

/-- R81: the frame after the byte `d` has arrived in `st`. -/
def putByte (st : FsmState) (d : Byte) (f : Frame) : Frame :=
  match st with
  | .rB0 => { f with b0 := d }
  | .rB1 => { f with b1 := d }
  | .rB2 => { f with b2 := d }
  | .rB3 => { f with b3 := d }
  | .rB4 => { f with b4 := d }
  | .rB5 => { f with b5 := d }
  | _ => f

/-- The turns of a round: the completion of the state's request, and its consumption (R80, R84, R85). -/
def Round.turns (r : Round) : List Turn :=
  match reqOf r.st with
  | some (.bus _ _ _) => [.bus, .fsm]
  | some (.delay _) => [.tmr, .fsm]
  | none => []

/-- The events of a round (R78, R84, R85). -/
def Round.events (r : Round) : List Event :=
  match reqOf r.st with
  | some q => [.issue q, .complete q r.byte]
  | none => []

/-- What a round takes of the sensor's bytes (R84). -/
def Round.sensed (r : Round) : List Byte := if readsByte r.st = true then [r.byte] else []

/-- R84, R85: a round begins in a request state, and only a READ carries another byte than 0. -/
def Round.answered (r : Round) : Bool := (reqOf r.st).isSome && (readsByte r.st || r.byte == 0#8)

/-- The rounds from `st` whose completions carry the given bytes, in the order of R79. -/
def rounds (cmd : BitVec 3) (st : FsmState) : List Byte → List Round
  | [] => []
  | d :: ds => ⟨st, d⟩ :: rounds cmd (nextState st cmd) ds

theorem Round.events_of_request {r : Round} {q : Request} (h : reqOf r.st = some q) :
    r.events = [.issue q, .complete q r.byte] := by
  rw [Round.events, h]

/-- The history of the rounds from `st`. -/
def runEvents (cmd : BitVec 3) (st : FsmState) (ds : List Byte) : List Event :=
  (rounds cmd st ds).flatMap Round.events

/-- The history of rounds issues the requests of their states. -/
theorem issues_runEvents (cmd : BitVec 3) (st : FsmState) (ds : List Byte) :
    issues (runEvents cmd st ds) = (rounds cmd st ds).flatMap fun r => (reqOf r.st).toList := by
  have hround : ∀ r : Round, issues r.events = (reqOf r.st).toList := by
    intro r
    cases hreq : reqOf r.st with
    | none => rw [Round.events, hreq]; rfl
    | some q => rw [Round.events_of_request hreq]; rfl
  unfold runEvents
  induction rounds cmd st ds with
  | nil => rfl
  | cons r rs ih => rw [List.flatMap_cons, issues_append, hround, ih, List.flatMap_cons]

theorem readEffect_eq_putByte (st : FsmState) (d : Byte) (s : State) :
    readEffect st d s = { s with frame := putByte st d s.frame } := by
  cases st <;> rfl

theorem putByte_of_not_reads {st : FsmState} (h : readsByte st = false) (d : Byte) (f : Frame) :
    putByte st d f = f := by
  unfold putByte
  split
  case h_7 => rfl
  all_goals exact absurd h (by decide)

/-- R29: the states whose request has the code of READ request a READ. -/
theorem reqOf_of_readsByte {st : FsmState} (h : readsByte st = true) : ∃ ack, reqOf st = some (reqRead ack) := by
  cases st with
  | rB0 | rB1 | rB2 | rB3 | rB4 => exact ⟨true, rfl⟩
  | rB5 => exact ⟨false, rfl⟩
  | _ => cases h

/-- R80, R84, R85: a round that reads no byte, from the entry into its state to the entry into the next. -/
theorem runSteps_silentRound {st : FsmState} {s : State} {ts : List Turn} (n : Nat) (hsome : (reqOf st).isSome = true)
    (hsilent : readsByte st = false) (ht : s.turns = Round.turns ⟨st, 0#8⟩ ++ ts) (hbus : s.busHung = false)
    (htmr : s.tmrHung = false) :
    runSteps (n + 2) (enter st s) = runSteps n (enter (nextState st s.cmd)
      { s with turns := ts, trace := s.trace ++ Round.events ⟨st, 0#8⟩ }) := by
  obtain ⟨q, hreq⟩ := Option.isSome_iff_exists.1 hsome
  rw [Round.events_of_request hreq, enter_of_request hreq]
  cases q with
  | bus op arg ack =>
    have h5 : op ≠ 5#3 := by simpa [readsByte, hreq] using hsilent
    rw [runSteps_busRound n (by simpa [Round.turns, hreq] using ht) hreq rfl rfl (by exact hbus) h5, List.append_assoc]
    exact congrArg _ (enter_of_moved _ _ _ _ _).symm
  | delay k =>
    rw [runSteps_delayRound n (by simpa [Round.turns, hreq] using ht) hreq rfl rfl (by exact htmr), List.append_assoc]
    exact congrArg _ (enter_of_moved _ _ _ _ _).symm

/-- R80, R81, R84: a round that reads the sensor's next byte. -/
theorem runSteps_byteRound {st : FsmState} {s : State} {ts : List Turn} {d : Byte} {bs : List Byte} (n : Nat)
    (hread : readsByte st = true) (ht : s.turns = Round.turns ⟨st, d⟩ ++ ts) (hd : s.sensor = d :: bs)
    (hbus : s.busHung = false) :
    runSteps (n + 2) (enter st s) = runSteps n (enter (nextState st s.cmd) { s with
      frame := putByte st d s.frame, turns := ts, sensor := bs, trace := s.trace ++ Round.events ⟨st, d⟩ }) := by
  obtain ⟨ack, hreq⟩ := reqOf_of_readsByte hread
  have hturns : s.turns = .bus :: .fsm :: ts := by simpa [Round.turns, hreq, reqRead] using ht
  rw [Round.events_of_request hreq, enter_of_request hreq,
    runSteps_readRound n (by exact hturns) hreq rfl rfl (by exact hbus) (by exact hd), readEffect_eq_putByte,
    List.append_assoc]
  exact congrArg _ (enter_of_moved _ _ _ _ _).symm

/-- R80: a round of either kind. -/
theorem runSteps_round {r : Round} {s : State} {ts : List Turn} {bs : List Byte} (n : Nat) (ha : r.answered = true)
    (ht : s.turns = r.turns ++ ts) (hd : s.sensor = r.sensed ++ bs) (hbus : s.busHung = false)
    (htmr : s.tmrHung = false) :
    runSteps (n + 2) (enter r.st s) = runSteps n (enter (nextState r.st s.cmd) { s with
      frame := putByte r.st r.byte s.frame, turns := ts, sensor := bs, trace := s.trace ++ r.events }) := by
  obtain ⟨st, d⟩ := r
  obtain ⟨hsome, hzero⟩ := Bool.and_eq_true_iff.1 ha
  cases hread : readsByte st with
  | true => exact runSteps_byteRound n hread ht (by simpa [Round.sensed, hread] using hd) hbus
  | false =>
    obtain rfl : s.sensor = bs := by simpa [Round.sensed, hread] using hd
    obtain rfl : d = 0#8 := by simpa [hread] using hzero
    rw [putByte_of_not_reads hread]
    exact runSteps_silentRound n hsome hread ht hbus htmr

/-- A run in rounds: each takes its turns and its byte, and adds its events. -/
theorem runSteps_rounds {st : FsmState} {s : State} {ts : List Turn} {bs : List Byte} (ds : List Byte) (k : Nat)
    (ha : (rounds s.cmd st ds).all Round.answered = true)
    (ht : s.turns = (rounds s.cmd st ds).flatMap Round.turns ++ ts)
    (hd : s.sensor = (rounds s.cmd st ds).flatMap Round.sensed ++ bs)
    (hbus : s.busHung = false) (htmr : s.tmrHung = false) :
    runSteps (k + 2 * ds.length) (enter st s) = runSteps k (enter ((nextState · s.cmd)^[ds.length] st) { s with
      frame := (rounds s.cmd st ds).foldl (fun f r => putByte r.st r.byte f) s.frame, turns := ts, sensor := bs,
      trace := s.trace ++ runEvents s.cmd st ds }) := by
  induction ds generalizing st s with
  | nil =>
    obtain rfl : s.turns = ts := ht
    obtain rfl : s.sensor = bs := hd
    simp [runEvents, rounds]
  | cons d ds ih =>
    rw [rounds, List.all_cons, Bool.and_eq_true] at ha
    rw [rounds, List.flatMap_cons, List.append_assoc] at ht hd
    have hround := runSteps_round (r := ⟨st, d⟩) (k + 2 * ds.length) ha.1 ht hd hbus htmr
    have hrest := hround.trans (ih ha.2 rfl rfl hbus htmr)
    rw [runEvents, rounds, List.flatMap_cons, ← List.append_assoc]
    exact hrest

/-- What a run issues after the write of its command. -/
theorem issues_commandRun (tr es : List Event) (w : Word) :
    issues (tr ++ [.hostWrite 0x00#8 w] ++ es) = issues tr ++ issues es := by
  rw [issues_append, issues_append_hostWrite]

/-- R95: from I_START to IDLE, in seven rounds. -/
theorem runSteps_initTurns {s : State} {ts : List Turn} (k : Nat) (ht : s.turns = initTurns ++ ts)
    (hbus : s.busHung = false) (htmr : s.tmrHung = false) :
    runSteps (k + 14) (enter .iStart s) = runSteps k (enter .idle
      { s with turns := ts, trace := s.trace ++ runEvents s.cmd .iStart (List.replicate 7 0#8) }) :=
  runSteps_rounds (List.replicate 7 0#8) k rfl ht rfl hbus htmr

theorem issues_initRun (cmd : BitVec 3) :
    issues (runEvents cmd .iStart (List.replicate 7 0#8)) = initTranscript :=
  issues_runEvents cmd .iStart (List.replicate 7 0#8)

/-- The bytes the completions of a read run carry, when the frame is to be `f` (R84, R96). -/
def readBytes (f : Frame) : List Byte :=
  List.replicate 9 0#8 ++ [f.b0, f.b1, f.b2, f.b3, f.b4, f.b5] ++ List.replicate 2 0#8

theorem issues_readRun (cmd : BitVec 3) (f : Frame) :
    issues (runEvents cmd .tStart (readBytes f)) = readTranscript :=
  issues_runEvents cmd .tStart (readBytes f)

/-- R42: the bytes of the six READs are the frame, in wire order. -/
theorem foldl_putByte_readBytes (cmd : BitVec 3) (f g : Frame) :
    (rounds cmd .tStart (readBytes f)).foldl (fun f r => putByte r.st r.byte f) g = f := by
  simp [readBytes, rounds, nextState, putByte, List.replicate]

/-- R96: from T_START to the end of R_WAIT, in seventeen rounds. -/
theorem runSteps_readTurns {s : State} {ts : List Turn} {bs : List Byte} (f : Frame) (k : Nat)
    (ht : s.turns = readTurns ++ ts) (hbus : s.busHung = false) (htmr : s.tmrHung = false)
    (hd : s.sensor = [f.b0, f.b1, f.b2, f.b3, f.b4, f.b5] ++ bs) :
    runSteps (k + 34) (enter .tStart s) = runSteps k (enter (nextState .rWait s.cmd) { s with
      frame := f, turns := ts, sensor := bs, trace := s.trace ++ runEvents s.cmd .tStart (readBytes f) }) := by
  have hrun := runSteps_rounds (st := .tStart) (readBytes f) k rfl ht hd hbus htmr
  rw [foldl_putByte_readBytes] at hrun
  exact hrun

/-- The host's turn with INIT next, in an unbound block. -/
theorem runSteps_initCommand {s : State} {ign : BitVec 29} {ts : List Turn} {hs : List HostOp} (n : Nat)
    (hidle : s.state = .idle) (hfresh : s.initd = false) (ht : s.turns = .host :: ts)
    (hh : s.host = .command (ctrlWord ign 1#3) :: hs) :
    runSteps (n + 1) s = runSteps n (enter .iStart { s with
      cmd := 1#3, done := false, initd := true, turns := ts, host := hs,
      trace := s.trace ++ [.hostWrite 0x00#8 (ctrlWord ign 1#3)] }) := by
  rw [runSteps_command n ht hh, ctrlWrite_init (by exact hidle) (by exact hfresh)]

/-- The host's turn with READ_RAW or MEASURE next, in a bound block. -/
theorem runSteps_readCommand {s : State} {c : BitVec 3} {ign : BitVec 29} {ts : List Turn} {hs : List HostOp} (n : Nat)
    (hc : c = 2#3 ∨ c = 6#3) (hidle : s.state = .idle) (hbound : s.initd = true) (ht : s.turns = .host :: ts)
    (hh : s.host = .command (ctrlWord ign c) :: hs) :
    runSteps (n + 1) s = runSteps n (enter .tStart { s with
      cmd := c, done := false, turns := ts, host := hs, trace := s.trace ++ [.hostWrite 0x00#8 (ctrlWord ign c)] }) := by
  rw [runSteps_command n ht hh, ctrlWrite_read hc (by exact hidle) (by exact hbound)]

/-- Settles O58: the acceptance, and then the seven rounds of the init group. -/
theorem initRunsToCompletion : Obligations.InitRunsToCompletion := by
  intro s ign ts hs hidle hfresh hbus htmr ht hh
  have haccept := runSteps_initCommand 14 hidle hfresh ht hh
  have hissues := (issues_commandRun s.trace _ (ctrlWord ign 1#3)).trans (congrArg _ (issues_initRun 1#3))
  exact ⟨_, haccept.trans (runSteps_initTurns 0 rfl hbus htmr), rfl, rfl, rfl, rfl, rfl, rfl, hissues, rfl, rfl, rfl,
    rfl, rfl, rfl, rfl, rfl, rfl⟩

/-- Settles O59: the acceptance, and then the run that reads a frame. -/
theorem readRawRunsToCompletion : Obligations.ReadRawRunsToCompletion := by
  intro s ign ts hs b0 b1 b2 b3 b4 b5 bs hidle hbound hbus htmr ht hh hd
  have haccept := runSteps_readCommand 34 (.inl rfl) hidle hbound ht hh
  have hread := haccept.trans (runSteps_readTurns ⟨b0, b1, b2, b3, b4, b5⟩ 0 rfl hbus htmr hd)
  have hissues := (issues_commandRun s.trace _ (ctrlWord ign 2#3)).trans
    (congrArg _ (issues_readRun 2#3 ⟨b0, b1, b2, b3, b4, b5⟩))
  exact ⟨_, hread, rfl, rfl, rfl, rfl, rfl, rfl, hissues, rfl, rfl, rfl, rfl, rfl, rfl, rfl, rfl, rfl⟩

/-- R106: `TEMP` as DEC writes it reads back as the signed centi-temperature. -/
theorem s32_wrap32_centiTemp (tr : BitVec 20) : s32 (wrap32 (centiTemp tr)) = centiTemp tr := by
  obtain ⟨hlo, hhi⟩ := centiTemp_bounds tr
  exact s32_wrap32 (by omega) (by omega)

/-- R107: `HUM` as DEC writes it reads back as the percentage. -/
theorem toNat_ofNat_humPercent (hr : BitVec 20) : (BitVec.ofNat 32 (humPercent hr)).toNat = humPercent hr := by
  have := humPercent_le hr
  rw [BitVec.toNat_ofNat]
  omega

/-- Settles O60: the run that reads a frame, and then DEC, HIC and CLS on that frame. -/
theorem measureRunsToCompletion : Obligations.MeasureRunsToCompletion := by
  intro s ign ts hs b0 b1 b2 b3 b4 b5 bs hidle hbound hbus htmr ht hh hd f
  have haccept := runSteps_readCommand 37 (.inr rfl) hidle hbound ht hh
  have hread := haccept.trans (runSteps_readTurns (ts := [.fsm, .fsm, .fsm] ++ ts) f 3 rfl hbus htmr hd)
  have hdec := hread.trans (runSteps_succ 2 (step_enter_dec rfl))
  have hissues := (issues_commandRun s.trace _ (ctrlWord ign 6#3)).trans (congrArg _ (issues_readRun 6#3 f))
  refine ⟨_, hdec.trans (runSteps_enter_hic 0 rfl), rfl, rfl, rfl, rfl, rfl, rfl, hissues, rfl, rfl,
    s32_wrap32_centiTemp _, toNat_ofNat_humPercent _, ?hi, rfl, valid_iff _, rfl, rfl, rfl⟩
  case hi =>
    rw [← s32_wrap32_centiTemp, ← toNat_ofNat_humPercent]
    rfl

end Sys2Proof.Machine
end

section
/-! SUPPORT. The transcript of a command (41_protocol_fsm.md, R95, R96): the requests its states have left in the history,
and that every step keeps them. -/

namespace Sys2Proof.Machine

/-- R78: what an entry adds to the requests of the history. -/
theorem issues_enter (st : FsmState) (s : State) :
    issues (enter st s).trace = issues s.trace ++ (reqOf st).toList := by
  rw [enter_trace, issues_append]
  cases reqOf st <;> rfl

theorem issues_append_hostRead (es : List Event) (off : BitVec 8) (v : Word) :
    issues (es ++ [.hostRead off v]) = issues es := by
  rw [issues_append]
  exact List.append_nil _

theorem issues_complete (r : Request) (d : Byte) (s : State) : issues (complete r d s).trace = issues s.trace := by
  rw [complete_trace, issues_append]
  exact List.append_nil _

/-- R79, R95, R96: the transcript up to the successor of a state is a last part of the transcript up to the state and the
successor's request. -/
theorem issuedSoFar_nextState (cmd : BitVec 3) (st : FsmState) :
    issuedSoFar cmd (nextState st cmd) <:+ issuedSoFar cmd st ++ (reqOf (nextState st cmd)).toList := by
  cases st with
  | iWait | cls => exact List.nil_suffix
  | unused k => exact (List.append_nil _).symm ▸ List.suffix_refl _
  | hic =>
    have hcls : issuedSoFar cmd .cls = issuedSoFar cmd .hic := by simp [issuedSoFar, FsmState.code]
    rw [nextState, hcls]
    exact (List.append_nil _).symm ▸ List.suffix_refl _
  | rWait | dec =>
    by_cases h : cmd = 6#3
    · subst h
      exact List.suffix_refl _
    · rw [nextState, if_neg h]
      exact List.nil_suffix
  | _ => exact List.suffix_refl _

/-- R66, R67: what an accepted command has issued in its first state is that state's request. -/
theorem issuedSoFar_firstState (c : BitVec 3) : issuedSoFar c (firstState c) = (reqOf (firstState c)).toList := by
  have hall : ∀ c : BitVec 3, c = 0#3 ∨ c = 1#3 ∨ c = 2#3 ∨ c = 3#3 ∨ c = 4#3 ∨ c = 5#3 ∨ c = 6#3 ∨ c = 7#3 := by decide
  rcases hall c with rfl | rfl | rfl | rfl | rfl | rfl | rfl | rfl <;> rfl

/-- `TranscriptInv` speaks of the FSM state, the command and the requests of the history only. -/
theorem transcriptInv_of_eq {s t : State} (h : TranscriptInv s) (hstate : t.state = s.state) (hcmd : t.cmd = s.cmd)
    (hissues : issues t.trace = issues s.trace) : TranscriptInv t := by
  rw [TranscriptInv, hstate, hcmd, hissues]
  exact h

theorem transcriptInv_complete {s : State} (h : TranscriptInv s) (r : Request) (d : Byte) :
    TranscriptInv (complete r d s) :=
  transcriptInv_of_eq h rfl rfl (issues_complete r d s)

/-- R79: the FSM's entry into the next state, whatever registers its step wrote. -/
theorem transcriptInv_enter_next {s u : State} {st : FsmState} (h : TranscriptInv s) (hst : nextState s.state s.cmd = st)
    (hcmd : u.cmd = s.cmd) (htrace : u.trace = s.trace) : TranscriptInv (enter st u) := by
  rw [TranscriptInv, enter_cmd, enter_state, issues_enter, hcmd, htrace, ← hst]
  exact (issuedSoFar_nextState s.cmd s.state).trans (List.suffix_append_self_iff.2 h)

/-- R67: an acceptance begins a transcript, after whatever the history holds. -/
theorem transcriptInv_accept (c : BitVec 3) (s : State) : TranscriptInv (accept c s) := by
  rw [accept, TranscriptInv, enter_cmd, enter_state, issues_enter, issuedSoFar_firstState]
  exact List.suffix_append _ _

theorem transcriptInv_hostWriteEffect {s : State} (off : BitVec 8) (v : Word) (h : TranscriptInv s) :
    TranscriptInv (hostWriteEffect off v s) :=
  hostWriteEffect_keeps off v h (fun _ => h) (fun _ => h) (fun _ => h) fun c _ _ _ => transcriptInv_accept c s

theorem moved_keeps_transcriptInv {a : Turn} {s t : State} (m : Moved s a t) (h : TranscriptInv s) :
    TranscriptInv t := by
  cases m with
  | hold => exact h
  | read hs off => exact transcriptInv_of_eq h rfl rfl (issues_append_hostRead _ off _)
  | wrote hs off v =>
    exact transcriptInv_hostWriteEffect off v (transcriptInv_of_eq h rfl rfl (issues_append_hostWrite _ off v))
  | bus op arg ack =>
    split
    · have hdraw : TranscriptInv (drawByte s).2 :=
        transcriptInv_of_eq h (drawByte_state s) (drawByte_cmd s) (by rw [drawByte_trace])
      exact transcriptInv_complete hdraw _ _
    · exact transcriptInv_complete h _ _
  | tmr => exact transcriptInv_complete h _ _
  | consume d => exact transcriptInv_enter_next h rfl (readEffect_cmd _ d s) (readEffect_trace _ d s)
  | dec hst => exact transcriptInv_enter_next h (by rw [hst]) rfl rfl
  | hic hst => exact transcriptInv_enter_next h (by rw [hst]; rfl) rfl rfl
  | cls hst => exact transcriptInv_enter_next h (by rw [hst]; rfl) rfl rfl
  | reset => exact List.nil_suffix
  | busHang => exact h
  | tmrHang => exact h

/-- Settles O50: the invariant by the shapes a step can have, and in the last wait the transcript up to the state is the
whole one. -/
theorem stepKeepsTranscript : Obligations.StepKeepsTranscript := by
  refine ⟨fun s t h e => ?step, fun s h hst => ?init, fun s h hst => ?read⟩
  case step =>
    obtain ⟨ts, n, m⟩ := step_moved e
    exact moved_keeps_transcriptInv m h
  case init =>
    rw [TranscriptInv, hst] at h
    exact h
  case read =>
    rw [TranscriptInv, hst] at h
    exact h

end Sys2Proof.Machine
end

section
/-! SUPPORT. The provider operations (R84, R85): what completing a request carries and what it leaves alone. -/

namespace Sys2Proof.Machine

/-- Settles O32: each of the five operations is the plain completion of its request. -/
theorem busOperationsComplete : Obligations.BusOperationsComplete := by
  refine ⟨fun s hr hc => ?_, fun s hr hc => ?_, fun s a hr hc => ?_, fun s a hr hc => ?_, fun s b hr hc => ?_⟩
  all_goals exact congrArg _ (completePlain_of_awaits ⟨hr, hc⟩)

/-- Settles O34: a delay is the plain completion of its request. -/
theorem delayCompletes : Obligations.DelayCompletes := fun _ _ hr hc =>
  congrArg _ (completePlain_of_awaits ⟨hr, hc⟩)

theorem exec_read (ack : Bool) (s : State) :
    exec (if ack = true then .readAck else .readNak) s = .next (completeRead (reqRead ack) s) := by
  cases ack <;> rfl

/-- Settles O33, by the two ways a byte is drawn. -/
theorem readsCompleteWithSensorByte : Obligations.ReadsCompleteWithSensorByte := by
  intro s ack hr hc
  rw [exec_read, completeRead_of_awaits (r := reqRead ack) ⟨hr, hc⟩]
  refine ⟨fun d rest hd => ?next, fun hd => ⟨Config.freeByte s.drawn, ?free⟩⟩
  case next =>
    rw [drawByte, hd]
    rfl
  case free =>
    rw [drawByte, hd]
    rfl

/-- What no provider operation touches (R84, R85): everything but `cpl`, the history and the sensor's bytes; and it issues
nothing. -/
def ProviderKeeps (s t : State) : Prop :=
  t = { s with cpl := t.cpl, trace := t.trace, sensor := t.sensor, drawn := t.drawn } ∧ issues t.trace = issues s.trace

theorem providerKeeps_complete {s u : State} (h : ProviderKeeps s u) (r : Request) (d : Byte) :
    ProviderKeeps s (complete r d u) := by
  obtain ⟨hrest, hissues⟩ := h
  exact ⟨by rw [complete, hrest], (issues_complete r d u).trans hissues⟩

theorem providerKeeps_drawByte (s : State) : ProviderKeeps s (drawByte s).2 := by
  rcases drawByte_cases s with ⟨d, rest, -, e⟩ | ⟨-, e⟩ <;> rw [e] <;> exact ⟨rfl, rfl⟩

theorem completePlain_keeps (r : Request) (s : State) :
    ProviderKeeps s (completePlain r s) ∧ (completePlain r s).sensor = s.sensor ∧ (completePlain r s).drawn = s.drawn := by
  unfold completePlain
  split
  · exact ⟨providerKeeps_complete ⟨rfl, rfl⟩ r _, rfl, rfl⟩
  · exact ⟨⟨rfl, rfl⟩, rfl, rfl⟩

theorem completeRead_keeps (r : Request) (s : State) : ProviderKeeps s (completeRead r s) := by
  unfold completeRead
  split
  · exact providerKeeps_complete (providerKeeps_drawByte s) r _
  · exact ⟨rfl, rfl⟩

/-- The eight provider operations are completions, plain but for the two READs. -/
theorem exec_provider {i : Instr} (h : i = .start ∨ i = .stop ∨ (∃ a, i = .addrW a) ∨ (∃ a, i = .addrR a)
    ∨ (∃ b, i = .write b) ∨ i = .readAck ∨ i = .readNak ∨ (∃ n, i = .delay n)) (s : State) :
    ∃ r, exec i s = .next (completePlain r s)
      ∨ ((i = .readAck ∨ i = .readNak) ∧ exec i s = .next (completeRead r s)) := by
  rcases h with rfl | rfl | ⟨a, rfl⟩ | ⟨a, rfl⟩ | ⟨b, rfl⟩ | rfl | rfl | ⟨n, rfl⟩
  case inr.inr.inr.inr.inr.inl => exact ⟨reqRead true, .inr ⟨.inl rfl, rfl⟩⟩
  case inr.inr.inr.inr.inr.inr.inl => exact ⟨reqRead false, .inr ⟨.inr rfl, rfl⟩⟩
  all_goals exact ⟨_, .inl rfl⟩

/-- Settles O35: the operation is one of the two completions, whether or not its request is outstanding. -/
theorem providerFrame : Obligations.ProviderFrame := by
  intro s t i hi e
  obtain ⟨r, hplain | ⟨hread, hdraw⟩⟩ := exec_provider hi s
  · obtain rfl : completePlain r s = t := by rw [hplain] at e; cases e; rfl
    obtain ⟨⟨hrest, hissues⟩, hsensor, hdrawn⟩ := completePlain_keeps r s
    exact ⟨hrest, hissues, fun _ _ => ⟨hsensor, hdrawn⟩⟩
  · obtain rfl : completeRead r s = t := by rw [hdraw] at e; cases e; rfl
    obtain ⟨hrest, hissues⟩ := completeRead_keeps r s
    exact ⟨hrest, hissues, fun hack hnak => absurd hread (not_or.2 ⟨hack, hnak⟩)⟩

end Sys2Proof.Machine
end

section
/-! SUPPORT. The turns of the protocol engine (R79 to R86): an agent that has a step takes it, one that has none holds; and
what that gives for a busy block: how it waits, when it is stuck, and what is left of its command. -/

namespace Sys2Proof.Machine

/-! ## An agent without a step holds -/

/-- R29: the states that request nothing. -/
theorem reqOf_eq_none_iff (st : FsmState) :
    reqOf st = none ↔ st = .idle ∨ st = .dec ∨ st = .hic ∨ st = .cls ∨ ∃ k, st = .unused k := by
  cases st <;> simp [reqOf]

theorem ne_idle_of_request {st : FsmState} {r : Request} (h : reqOf st = some r) : st ≠ .idle := by
  rintro rfl
  cases h

theorem fsmTurn_disabled {s : State} (hused : ∀ k, s.state ≠ .unused k) (h : ¬ FsmEnabled s) : fsmTurn s = .next s := by
  obtain ⟨hdec, hhic, hcls, hwait⟩ : s.state ≠ .dec ∧ s.state ≠ .hic ∧ s.state ≠ .cls
      ∧ ¬ ((reqOf s.state).isSome ∧ s.cpl.isSome) := by simpa only [FsmEnabled, not_or] using h
  cases hreq : reqOf s.state with
  | some r => exact fsmTurn_waits hreq (by simpa [hreq] using hwait)
  | none =>
    rcases (reqOf_eq_none_iff _).1 hreq with hst | hst | hst | hst | ⟨k, hst⟩
    · rw [fsmTurn, hst]
    · exact absurd hst hdec
    · exact absurd hst hhic
    · exact absurd hst hcls
    · exact absurd hst (hused k)

theorem busTurn_disabled {s : State} (h : ¬ BusCanStep s) : busTurn s = .next s := by
  unfold busTurn
  split
  case isTrue => rfl
  case isFalse hhung =>
    split
    case h_1 op arg ack hr hc => exact absurd ⟨⟨⟨op, arg, ack, hr⟩, hc⟩, Bool.not_eq_true _ ▸ hhung⟩ h
    case h_2 => rfl

theorem tmrTurn_disabled {s : State} (h : ¬ TmrCanStep s) : tmrTurn s = .next s := by
  unfold tmrTurn
  split
  case isTrue => rfl
  case isFalse hhung =>
    split
    case h_1 n hr hc => exact absurd ⟨⟨⟨n, hr⟩, hc⟩, Bool.not_eq_true _ ▸ hhung⟩ h
    case h_2 => rfl

theorem hostTurn_over {s : State} (h : s.host = []) : hostTurn s = .next s := by
  rw [hostTurn, h]

/-- Settles O8: the turn of an agent that has no step, in the state the schedule leaves. -/
theorem disabledAgentHolds : Obligations.DisabledAgentHolds := by
  rintro s (⟨ha, hidle | ⟨hreq, hc⟩⟩ | ⟨ha, hbus⟩ | ⟨ha, htmr⟩ | ⟨ha, hhost⟩) <;> rw [step_of_turn ha]
  · rw [takeTurn, fsmTurn, popTurn_state, hidle]
  · obtain ⟨r, hreq⟩ := Option.isSome_iff_exists.1 hreq
    exact fsmTurn_waits (r := r) (by rwa [popTurn_state]) ((popTurn_cpl s).trans hc)
  · exact busTurn_disabled (by simpa [BusCanStep, BusEnabled] using hbus)
  · exact tmrTurn_disabled (by simpa [TmrCanStep, TmrEnabled] using htmr)
  · exact hostTurn_over ((popTurn_host s).trans hhost)

/-- Settles O9: the FSM's turn in an unused code. -/
theorem unusedStateRefused : Obligations.UnusedStateRefused := by
  intro s k ha hst
  rw [step_of_turn ha, takeTurn, fsmTurn, popTurn_state, hst]

/-! ## An agent with a step takes it -/

/-- R81: which byte of the frame the completion of a state's request reaches. -/
theorem putByte_bytes (st : FsmState) (d : Byte) (f : Frame) :
    (putByte st d f).b0 = (if st = .rB0 then d else f.b0) ∧ (putByte st d f).b1 = (if st = .rB1 then d else f.b1)
      ∧ (putByte st d f).b2 = (if st = .rB2 then d else f.b2) ∧ (putByte st d f).b3 = (if st = .rB3 then d else f.b3)
      ∧ (putByte st d f).b4 = (if st = .rB4 then d else f.b4) ∧ (putByte st d f).b5 = (if st = .rB5 then d else f.b5) := by
  cases st <;> exact ⟨rfl, rfl, rfl, rfl, rfl, rfl⟩

/-- Settles O7: the consumption is a byte put into the frame and then an entry. -/
theorem fsmConsumesCompletion : Obligations.FsmConsumesCompletion := by
  intro s r d ha hreq hc
  have e : step s = .next (fsmReqStep d (popTurn s).2) := by
    rw [step_of_turn ha]
    exact fsmTurn_consumes (by rwa [popTurn_state]) (by rwa [popTurn_cpl])
  obtain ⟨h0, h1, h2, h3, h4, h5⟩ := putByte_bytes s.state d s.frame
  refine ⟨_, e, ?_⟩
  cases hnext : reqOf (nextState s.state s.cmd) <;>
    simp [fsmReqStep, readEffect_eq_putByte, h0, h1, h2, h3, h4, h5, hnext]

/-- What an agent's step towards IDLE does to the elements `workLeft` counts (R79): the FSM enters the next state. -/
def Advances (s t : State) : Prop := t.state = nextState s.state s.cmd ∧ t.cmd = s.cmd ∧ t.cpl = none

/-- What a provider's step does to the elements `workLeft` counts (R84, R85). -/
def Completes (s t : State) : Prop := t.state = s.state ∧ t.cmd = s.cmd ∧ s.cpl = none ∧ t.cpl.isSome = true

theorem advances_enter_next {s u : State} {st : FsmState} (hst : nextState s.state s.cmd = st) (hcmd : u.cmd = s.cmd) :
    Advances s (enter st u) :=
  ⟨(enter_state _ _).trans hst.symm, (enter_cmd _ _).trans hcmd, enter_cpl _ _⟩

theorem completes_complete {s u : State} (hc : s.cpl = none) (hstate : u.state = s.state) (hcmd : u.cmd = s.cmd)
    (r : Request) (d : Byte) : Completes s (complete r d u) :=
  ⟨hstate, hcmd, hc, rfl⟩

/-- R80, R82: an FSM that has a step takes it. -/
theorem fsmTurn_enabled {s : State} (h : FsmEnabled s) : ∃ t, fsmTurn s = .next t ∧ Advances s t := by
  rcases h with hst | hst | hst | ⟨hreq, hc⟩
  · exact ⟨_, fsmTurn_of_decode (i := .dec) (by rw [hst]; rfl), advances_enter_next (by rw [hst]) rfl⟩
  · exact ⟨_, fsmTurn_of_decode (i := .hic) (by rw [hst]; rfl), advances_enter_next (by rw [hst]; rfl) rfl⟩
  · exact ⟨_, fsmTurn_of_decode (i := .cls) (by rw [hst]; rfl), advances_enter_next (by rw [hst]; rfl) rfl⟩
  · obtain ⟨r, hreq⟩ := Option.isSome_iff_exists.1 hreq
    obtain ⟨d, hc⟩ := Option.isSome_iff_exists.1 hc
    exact ⟨_, fsmTurn_consumes hreq hc, advances_enter_next rfl (readEffect_cmd _ d s)⟩

/-- R84: a bus provider that has a step completes the request of the FSM's state. -/
theorem busTurn_enabled {s : State} (hreq : s.req = reqOf s.state) (h : BusCanStep s) :
    ∃ t, busTurn s = .next t ∧ Completes s t := by
  obtain ⟨⟨⟨op, arg, ack, hr⟩, hc⟩, hhung⟩ := h
  refine ⟨_, busTurn_issued (hreq.symm.trans hr) hr hc hhung, ?_⟩
  split
  · exact completes_complete hc (drawByte_state s) (drawByte_cmd s) _ _
  · exact completes_complete hc rfl rfl _ _

theorem tmrTurn_enabled {s : State} (h : TmrCanStep s) : ∃ t, tmrTurn s = .next t ∧ Completes s t := by
  obtain ⟨⟨⟨n, hr⟩, hc⟩, hhung⟩ := h
  exact ⟨_, tmrTurn_issued hr hc hhung, completes_complete hc rfl rfl _ _⟩

/-! ## Every step completes -/

/-- R56, R57, R60: what an access of the host program puts on the port has a meaning. -/
theorem exec_of_hostDatum {op : HostOp} {d : Datum} (h : op.datum = .ok d) (s : State) :
    ∃ i t, decode d = .ok i ∧ exec i s = .next t := by
  have haccess : ∀ w : BitVec 39, ∃ i t, decode (.hostacc w) = .ok i ∧ exec i s = .next t := by
    intro w
    obtain ⟨off, v, ha, hd | hd⟩ := decode_hostacc w
    · exact ⟨_, _, hd, exec_hostRead ha v s⟩
    · exact ⟨_, _, hd, exec_hostWrite ha v s⟩
  cases op with
  | command w => cases h; exact ⟨_, _, rfl, exec_of_ctrl w s⟩
  | access w => cases h; exact haccess w
  | memRead a n | memWrite a n v | poll off m v =>
    simp only [HostOp.datum] at h
    split at h <;> cases h
    exact haccess _

theorem hostTurn_completes {s : State} (h : ∀ op ∈ s.host, ∃ d, op.datum = .ok d) : ∃ t, hostTurn s = .next t := by
  cases hh : s.host with
  | nil => exact ⟨s, hostTurn_over hh⟩
  | cons op rest =>
    obtain ⟨d, hd⟩ := h op (by simp [hh])
    obtain ⟨i, t, hi, e⟩ := exec_of_hostDatum hd { s with host := if op.finished s = true then rest else op :: rest }
    exact ⟨t, (hostTurn_of_decode hh hd hi).trans e⟩

/-- Settles O10: each agent has a step that completes, or has none and holds. -/
theorem stepsCompleteUnderProtocolInv : Obligations.StepsCompleteUnderProtocolInv := by
  intro s hinv hhost
  obtain ⟨hused, hreq, -⟩ := hinv
  cases ha : (popTurn s).1 <;> rw [step_of_turn ha, takeTurn]
  case host => exact hostTurn_completes (by rwa [popTurn_host])
  case fsm =>
    by_cases h : FsmEnabled (popTurn s).2
    · exact (fsmTurn_enabled h).imp fun _ => And.left
    · exact ⟨_, fsmTurn_disabled (by rwa [popTurn_state]) h⟩
  case bus =>
    by_cases h : BusCanStep (popTurn s).2
    · exact (busTurn_enabled (by rwa [popTurn_req, popTurn_state]) h).imp fun _ => And.left
    · exact ⟨_, busTurn_disabled h⟩
  case tmr =>
    by_cases h : TmrCanStep (popTurn s).2
    · exact (tmrTurn_enabled h).imp fun _ => And.left
    · exact ⟨_, tmrTurn_disabled h⟩
  all_goals exact ⟨_, rfl⟩

/-! ## How a busy block waits -/

/-- The turn of `a` brings a busy block no further: it is no reset, and no step of FSM, BUS or TMR. -/
def NoProgressTurn (s : State) : Turn → Prop
  | .fsm => ¬ FsmEnabled s
  | .bus => ¬ BusCanStep s
  | .tmr => ¬ TmrCanStep s
  | .reset => False
  | .host | .busHang | .tmrHang => True

/-- The block holds in its state from `s` to `t`: the elements every agent's condition looks at stay, and a provider that
hangs stays so. -/
def Holds (s t : State) : Prop :=
  t.state = s.state ∧ t.req = s.req ∧ t.cpl = s.cpl ∧ t.cmd = s.cmd
    ∧ (s.busHung = true → t.busHung = true) ∧ (s.tmrHung = true → t.tmrHung = true)

theorem holds_refl (s : State) : Holds s s := ⟨rfl, rfl, rfl, rfl, id, id⟩

theorem Holds.trans {s t u : State} (h : Holds s t) (h' : Holds t u) : Holds s u := by
  obtain ⟨hstate, hreq, hc, hcmd, hbus, htmr⟩ := h
  obtain ⟨hstate', hreq', hc', hcmd', hbus', htmr'⟩ := h'
  exact ⟨hstate'.trans hstate, hreq'.trans hreq, hc'.trans hc, hcmd'.trans hcmd, hbus' ∘ hbus, htmr' ∘ htmr⟩

/-- A turn that brings the block no further does so as long as the block holds. -/
theorem noProgressTurn_of_holds {s t : State} (h : Holds s t) {a : Turn} (hturn : NoProgressTurn s a) :
    NoProgressTurn t a := by
  obtain ⟨hstate, hreq, hc, -, hbus, htmr⟩ := h
  cases a with
  | fsm => rwa [NoProgressTurn, FsmEnabled, hstate, hc]
  | bus =>
    rintro ⟨hen, hhung⟩
    refine hturn ⟨by rwa [BusEnabled, hreq, hc] at hen, ?_⟩
    exact Bool.eq_false_of_not_eq_true fun hs => by simp [hbus hs] at hhung
  | tmr =>
    rintro ⟨hen, hhung⟩
    refine hturn ⟨by rwa [TmrEnabled, hreq, hc] at hen, ?_⟩
    exact Bool.eq_false_of_not_eq_true fun hs => by simp [htmr hs] at hhung
  | reset => exact hturn
  | host | busHang | tmrHang => trivial

/-- R53, R121: a host write that finds the block busy moves nothing. -/
theorem holds_hostWriteEffect {s : State} (hbusy : s.state ≠ .idle) (off : BitVec 8) (v : Word) :
    Holds s (hostWriteEffect off v s) ∧ (hostWriteEffect off v s).turns = s.turns := by
  rcases hostWriteEffect_of_busy hbusy off v with e | e <;> rw [e] <;> exact ⟨holds_refl s, rfl⟩

/-- R80 to R86: a busy block holds over every turn that brings it no further, and the turn takes no other off the
schedule. -/
theorem moved_holds {a : Turn} {s t : State} (m : Moved s a t) (hbusy : s.state ≠ .idle) (hturn : NoProgressTurn s a) :
    Holds s t ∧ t.turns = s.turns := by
  cases m with
  | hold => exact ⟨holds_refl s, rfl⟩
  | read => exact ⟨holds_refl s, rfl⟩
  | wrote hs off v => exact holds_hostWriteEffect (s := logEvent (.hostWrite off v) { s with host := hs }) hbusy off v
  | bus op arg ack hhung hr hc => exact absurd ⟨⟨⟨op, arg, ack, hr⟩, hc⟩, hhung⟩ hturn
  | tmr n hhung hr hc => exact absurd ⟨⟨⟨n, hr⟩, hc⟩, hhung⟩ hturn
  | consume d hc h0 h1 h2 h3 h4 =>
    have hreq : reqOf s.state ≠ none := by simp [reqOf_eq_none_iff, h0, h1, h2, h3, h4]
    exact absurd (.inr (.inr (.inr ⟨Option.isSome_iff_ne_none.2 hreq, by rw [hc]; rfl⟩))) hturn
  | dec hst => exact absurd (.inl hst) hturn
  | hic hst => exact absurd (.inr (.inl hst)) hturn
  | cls hst => exact absurd (.inr (.inr (.inl hst))) hturn
  | reset => exact hturn.elim
  | busHang => exact ⟨⟨rfl, rfl, rfl, rfl, fun _ => rfl, id⟩, rfl⟩
  | tmrHang => exact ⟨⟨rfl, rfl, rfl, rfl, id, fun _ => rfl⟩, rfl⟩

/-- A run's first step and the rest of it. -/
theorem exists_step_of_runSteps {n : Nat} {s t : State} (e : runSteps (n + 1) s = .next t) :
    ∃ u, step s = .next u ∧ runSteps n u = .next t := by
  cases hu : step s with
  | next u => exact ⟨u, rfl, (runSteps_succ n hu).symm.trans e⟩
  | fault f => exact nomatch f
  | refused r => simp [runSteps, hu] at e

/-- A busy block holds for as long as no turn of its schedule brings it further. -/
theorem runSteps_holds {n : Nat} {s t : State} (hbusy : s.state ≠ .idle) (hturns : ∀ a ∈ s.turns, NoProgressTurn s a)
    (hn : n ≤ s.turns.length) (e : runSteps n s = .next t) : Holds s t := by
  induction n generalizing s with
  | zero => cases e; exact holds_refl t
  | succ n ih =>
    obtain ⟨u, hu, e⟩ := exists_step_of_runSteps e
    cases hts : s.turns with
    | nil => simp [hts] at hn
    | cons a ts =>
      rw [hts, List.forall_mem_cons] at hturns
      obtain ⟨ha, hrest⟩ := hturns
      obtain ⟨hhold, hut⟩ : Holds s u ∧ u.turns = ts := moved_holds (step_moved_of_turns hts hu) hbusy ha
      refine hhold.trans (ih ?busy ?turns ?len e)
      case busy => rwa [hhold.1]
      case turns =>
        rw [hut]
        exact fun b hb => noProgressTurn_of_holds hhold (hrest b hb)
      case len =>
        rw [hut]
        simpa [hts] using hn

/-! ## When a busy block is stuck -/

theorem mover_eq_bus_iff (s : State) : mover s = .bus ↔ BusEnabled s := by
  rw [mover, BusEnabled]
  rcases s.req with _ | ⟨op, arg, ack⟩ | ⟨n⟩ <;> cases s.cpl <;> simp

theorem mover_cases (s : State) : mover s = .bus ∨ mover s = .tmr ∨ mover s = .fsm := by
  unfold mover
  split <;> simp

theorem mover_eq_tmr_iff (s : State) : mover s = .tmr ↔ TmrEnabled s := by
  rw [mover, TmrEnabled]
  rcases s.req with _ | ⟨op, arg, ack⟩ | ⟨n⟩ <;> cases s.cpl <;> simp

/-- R86: a provider that hangs while the block waits for it has no step; nor has the other one. -/
theorem not_canStep_of_waitsOnHung {s : State} (h : WaitsOnHungProvider s) : ¬ BusCanStep s ∧ ¬ TmrCanStep s := by
  rcases h with ⟨hm, hhung⟩ | ⟨hm, hhung⟩
  · refine ⟨fun ⟨_, hfree⟩ => by simp [hhung] at hfree, fun ⟨hen, _⟩ => ?_⟩
    exact absurd (hm.symm.trans ((mover_eq_tmr_iff s).2 hen)) (by decide)
  · refine ⟨fun ⟨hen, _⟩ => ?_, fun ⟨_, hfree⟩ => by simp [hhung] at hfree⟩
    exact absurd (hm.symm.trans ((mover_eq_bus_iff s).2 hen)) (by decide)

/-- A block that waits for a provider has a request outstanding. -/
theorem request_of_waitsOnHung {s : State} (h : WaitsOnHungProvider s) : (∃ r, s.req = some r) ∧ s.cpl = none := by
  rcases h with ⟨hm, -⟩ | ⟨hm, -⟩
  · obtain ⟨⟨op, arg, ack, hr⟩, hc⟩ := (mover_eq_bus_iff s).1 hm
    exact ⟨⟨_, hr⟩, hc⟩
  · obtain ⟨⟨n, hr⟩, hc⟩ := (mover_eq_tmr_iff s).1 hm
    exact ⟨⟨_, hr⟩, hc⟩

/-- R80: in a request state without a completion the FSM has no step. -/
theorem not_fsmEnabled_of_request {s : State} {r : Request} (hreq : reqOf s.state = some r) (hc : s.cpl = none) :
    ¬ FsmEnabled s := by
  rintro (hst | hst | hst | ⟨-, hcpl⟩)
  case inr.inr.inr => simp [hc] at hcpl
  all_goals simp [hst, reqOf] at hreq

/-- R55, R86: a block that waits for a hung provider is stuck. -/
theorem stuck_of_waitsOnHung {s : State} (hreq : s.req = reqOf s.state) (h : WaitsOnHungProvider s) : Stuck s := by
  obtain ⟨⟨r, hr⟩, hc⟩ := request_of_waitsOnHung h
  obtain ⟨hbus, htmr⟩ := not_canStep_of_waitsOnHung h
  refine ⟨fun ⟨_, hnone, _⟩ => ?_, not_fsmEnabled_of_request (hreq.symm.trans hr) hc, hbus, htmr⟩
  simp [hr] at hnone

/-- R86: a block that holds still waits for the hung provider. -/
theorem waitsOnHung_of_holds {s t : State} (h : Holds s t) (hw : WaitsOnHungProvider s) : WaitsOnHungProvider t := by
  obtain ⟨-, hreq, hc, -, hbus, htmr⟩ := h
  have hm : mover t = mover s := by rw [mover, hreq, hc]; rfl
  rw [WaitsOnHungProvider, hm]
  exact hw.imp (And.imp_right hbus) (And.imp_right htmr)

/-- Settles O55: in both clauses no turn of the schedule brings the block further, so it holds. -/
theorem noCompletionNoProgress : Obligations.NoCompletionNoProgress := by
  intro n s t r hreq hr hc hn e
  have hbusy : s.state ≠ .idle := ne_idle_of_request hreq
  have hfsm : ¬ FsmEnabled s := not_fsmEnabled_of_request hreq hc
  have hholds : (∀ a ∈ s.turns, NoProgressTurn s a) → Holds s t := fun hturns => runSteps_holds hbusy hturns hn e
  refine ⟨fun hturns => ?waits, fun hturns hw => ?hung⟩
  case waits =>
    obtain ⟨hstate, hreq', hc', hcmd, -⟩ := hholds fun a ha => by
      rcases hturns a ha with rfl | rfl
      · trivial
      · exact hfsm
    exact ⟨hstate, hreq', hc'.trans hc, hcmd, (busy_iff t).2 (by rwa [hstate])⟩
  case hung =>
    obtain ⟨hbus, htmr⟩ := not_canStep_of_waitsOnHung hw
    have hhold := hholds fun a ha => by
      cases a with
      | fsm => exact hfsm
      | bus => exact hbus
      | tmr => exact htmr
      | reset => exact hturns _ ha rfl
      | host | busHang | tmrHang => trivial
    have hwt := waitsOnHung_of_holds hhold hw
    obtain ⟨hstate, hreq', hc', hcmd, -⟩ := hhold
    have hstuck : Stuck t := stuck_of_waitsOnHung (by rw [hstate, hreq', hr, hreq]) hwt
    exact ⟨hstate, hreq', hc'.trans hc, hcmd, (busy_iff t).2 (by rwa [hstate]), hstuck, fun hend => hstuck.1 hend.2⟩

/-! ## What is left of a command -/

/-- R79: each state but IDLE is one FSM step nearer to IDLE than its successor is. -/
theorem stepsLeft_nextState {st : FsmState} (cmd : BitVec 3) (hbusy : st ≠ .idle) (hused : ∀ k, st ≠ .unused k) :
    stepsLeft cmd (nextState st cmd) + 1 = stepsLeft cmd st := by
  cases st with
  | idle => exact absurd rfl hbusy
  | unused k => exact absurd rfl (hused k)
  | _ => revert cmd; decide

theorem workLeft_of_advances {s t : State} (h : Advances s t) (hbusy : s.state ≠ .idle)
    (hused : ∀ k, s.state ≠ .unused k) : workLeft t < workLeft s := by
  obtain ⟨hstate, hcmd, hc⟩ := h
  have hnext := stepsLeft_nextState s.cmd hbusy hused
  have hcpl : (if s.cpl.isSome then 1 else 0) ≤ 1 := by split <;> decide
  rw [workLeft, workLeft, hstate, hcmd, hc, Option.isSome_none, if_neg (by decide)]
  omega

theorem workLeft_of_completes {s t : State} (h : Completes s t) (hbusy : s.state ≠ .idle)
    (hused : ∀ k, s.state ≠ .unused k) : workLeft t < workLeft s := by
  obtain ⟨hstate, hcmd, hnone, hc⟩ := h
  have hnext := stepsLeft_nextState s.cmd hbusy hused
  rw [workLeft, workLeft, hstate, hcmd, hnone, hc, if_pos rfl, Option.isSome_none, if_neg (by decide)]
  omega

/-- `workLeft` counts the FSM state, the command and the completion only. -/
theorem workLeft_of_holds {s t : State} (h : Holds s t) : workLeft t = workLeft s := by
  obtain ⟨hstate, -, hc, hcmd, -⟩ := h
  rw [workLeft, hstate, hcmd, hc, workLeft]

/-- R80, R82: when no provider has to move a busy block on, the FSM has a step. -/
theorem fsmEnabled_of_mover {s : State} (hinv : ProtocolInv s) (hbusy : s.state ≠ .idle) (hm : mover s = .fsm) :
    FsmEnabled s := by
  obtain ⟨hused, hreq, -⟩ := hinv
  cases hr : s.req with
  | none =>
    rcases (reqOf_eq_none_iff _).1 (hreq.symm.trans hr) with hst | hst | hst | hst | ⟨k, hst⟩
    · exact absurd hst hbusy
    · exact .inl hst
    · exact .inr (.inl hst)
    · exact .inr (.inr (.inl hst))
    · exact absurd hst (hused k)
  | some r =>
    have hc : s.cpl ≠ none := fun hc => by cases r <;> simp [mover, hr, hc] at hm
    exact .inr (.inr (.inr ⟨by rw [← hreq, hr]; rfl, Option.isSome_iff_ne_none.2 hc⟩))

/-- R55: what the agents that could move a busy block on are. -/
theorem canStep_or_waitsOnHung {s : State} (hinv : ProtocolInv s) (hbusy : s.state ≠ .idle) :
    (mover s = .fsm ∧ FsmEnabled s) ∨ (mover s = .bus ∧ BusCanStep s) ∨ (mover s = .tmr ∧ TmrCanStep s)
      ∨ WaitsOnHungProvider s := by
  by_cases hbus : BusEnabled s
  · have hm := (mover_eq_bus_iff s).2 hbus
    cases hhung : s.busHung with
    | false => exact .inr (.inl ⟨hm, hbus, hhung⟩)
    | true => exact .inr (.inr (.inr (.inl ⟨hm, hhung⟩)))
  by_cases htmr : TmrEnabled s
  · have hm := (mover_eq_tmr_iff s).2 htmr
    cases hhung : s.tmrHung with
    | false => exact .inr (.inr (.inl ⟨hm, htmr, hhung⟩))
    | true => exact .inr (.inr (.inr (.inr ⟨hm, hhung⟩)))
  have hm : mover s = .fsm := by
    rcases mover_cases s with h | h | h
    · exact absurd ((mover_eq_bus_iff s).1 h) hbus
    · exact absurd ((mover_eq_tmr_iff s).1 h) htmr
    · exact h
  exact .inl ⟨hm, fsmEnabled_of_mover hinv hbusy hm⟩

/-- Settles O56: the mover can step, or is a hung provider. -/
theorem busyBlockCanProgress : Obligations.BusyBlockCanProgress := by
  intro s hinv hbusy
  obtain ⟨hused, hreq, -⟩ := id hinv
  refine ⟨⟨fun ⟨_, hfsm, hbus, htmr⟩ => ?hung, stuck_of_waitsOnHung hreq⟩, fun hno => ?moves, fun t e => ?host⟩
  case hung =>
    rcases canStep_or_waitsOnHung hinv hbusy with ⟨-, h⟩ | ⟨-, h⟩ | ⟨-, h⟩ | h
    · exact absurd h hfsm
    · exact absurd h hbus
    · exact absurd h htmr
    · exact h
  case moves =>
    rcases canStep_or_waitsOnHung hinv hbusy with ⟨hm, h⟩ | ⟨hm, h⟩ | ⟨hm, h⟩ | h
    · rw [hm]
      exact (fsmTurn_enabled h).imp fun _ => And.imp_right fun ht => workLeft_of_advances ht hbusy hused
    · rw [hm]
      exact (busTurn_enabled hreq h).imp fun _ => And.imp_right fun ht => workLeft_of_completes ht hbusy hused
    · rw [hm]
      exact (tmrTurn_enabled h).imp fun _ => And.imp_right fun ht => workLeft_of_completes ht hbusy hused
    · exact absurd h hno
  case host =>
    obtain ⟨hhold, -⟩ := moved_holds (takeTurn_moved e) hbusy trivial
    exact workLeft_of_holds hhold

end Sys2Proof.Machine
end

section
/-! SUPPORT. The decoder (42_decoder.md): its two fields as sums of frame bytes, and what a datapath step leaves alone. -/

namespace Sys2Proof.Machine

/-! ## The two raw fields -/

/-- R45: a concatenation as a sum of its two fields. -/
theorem toNat_append_eq_add {n m : Nat} (x : BitVec n) (y : BitVec m) :
    (x ++ y).toNat = x.toNat * 2 ^ m + y.toNat := by
  rw [BitVec.toNat_append, ← Nat.shiftLeft_add_eq_or_of_lt y.isLt, Nat.shiftLeft_eq]

/-- R100: the humidity field is the upper twenty bits of `frame[1]:frame[2]:frame[3]`. -/
theorem humidRaw_toNat (f : Frame) :
    (humidRaw f).toNat = (f.b1.toNat * 2 ^ 16 + f.b2.toNat * 2 ^ 8 + f.b3.toNat) / 2 ^ 4 := by
  have hb1 := f.b1.isLt
  have hb2 := f.b2.isLt
  have hb3 := f.b3.isLt
  rw [humidRaw, BitVec.extractLsb'_toNat, toNat_append_eq_add, toNat_append_eq_add, Nat.shiftRight_eq_div_pow]
  omega

/-- R101: the temperature field is the low four bits of `frame[3]`, then `frame[4]:frame[5]`. -/
theorem tempRaw_toNat (f : Frame) :
    (tempRaw f).toNat = f.b3.toNat % 16 * 2 ^ 16 + f.b4.toNat * 2 ^ 8 + f.b5.toNat := by
  rw [tempRaw, toNat_append_eq_add, toNat_append_eq_add, BitVec.extractLsb'_toNat, Nat.shiftRight_zero]
  omega

/-- R105: the humidity field reads `frame[1..3]` alone. -/
theorem humidRaw_congr {f g : Frame} (h1 : f.b1 = g.b1) (h2 : f.b2 = g.b2) (h3 : f.b3 = g.b3) :
    humidRaw f = humidRaw g := by
  rw [humidRaw, humidRaw, h1, h2, h3]

/-- R105: the temperature field reads `frame[3..5]` alone. -/
theorem tempRaw_congr {f g : Frame} (h3 : f.b3 = g.b3) (h4 : f.b4 = g.b4) (h5 : f.b5 = g.b5) :
    tempRaw f = tempRaw g := by
  rw [tempRaw, tempRaw, h3, h4, h5]

/-! ## The datapath states -/

/-- R78: the entry into a state without a request leaves the history; `DONE` is set on IDLE only. -/
theorem enter_of_silent {st : FsmState} (h : reqOf st = none) (s : State) :
    enter st s = { s with state := st, req := none, cpl := none, done := if st = .idle then true else s.done } := by
  by_cases hst : st = .idle
  · subst hst
    rfl
  · rw [enter, if_neg hst, if_neg hst, h]

/-- R79: DEC goes on to a state without a request. -/
theorem reqOf_nextState_dec (cmd : BitVec 3) : reqOf (nextState .dec cmd) = none := by
  rw [nextState]
  split <;> rfl

/-- R99: DEC is its register writes and an entry. -/
theorem exec_dec (s : State) : exec .dec s = .next (enter (nextState .dec s.cmd) (decodeFrame s)) := rfl

/-- R99, R112, R115: `u` is `s` but for the result registers that belong to the datapath instruction `i`. -/
def WritesOwnResults (i : Instr) (s u : State) : Prop :=
  u = { s with rawh := u.rawh, rawt := u.rawt, temp := u.temp, hum := u.hum, hi := u.hi, band := u.band }
    ∧ (i ≠ .dec → u.rawh = s.rawh ∧ u.rawt = s.rawt ∧ u.temp = s.temp ∧ u.hum = s.hum)
    ∧ (i ≠ .hic → u.hi = s.hi) ∧ (i ≠ .cls → u.band = s.band)

/-- R82: a datapath step writes its own registers and enters a state without a request. -/
theorem exec_datapath {i : Instr} {s t : State} (hi : i = .dec ∨ i = .hic ∨ i = .cls) (e : exec i s = .next t) :
    ∃ st u, reqOf st = none ∧ WritesOwnResults i s u ∧ enter st u = t := by
  rcases hi with rfl | rfl | rfl
  · exact ⟨_, decodeFrame s, reqOf_nextState_dec s.cmd, ⟨rfl, absurd rfl, fun _ => rfl, fun _ => rfl⟩,
      Host.Outcome.next.inj e⟩
  · exact ⟨.cls, writeHeatIndex Config.hiPoly s, rfl,
      ⟨rfl, fun _ => ⟨rfl, rfl, rfl, rfl⟩, absurd rfl, fun _ => rfl⟩, Host.Outcome.next.inj e⟩
  · exact ⟨.idle, writeBand s, rfl, ⟨rfl, fun _ => ⟨rfl, rfl, rfl, rfl⟩, fun _ => rfl, absurd rfl⟩,
      Host.Outcome.next.inj e⟩

/-- Settles O38: DEC's four values are functions of the two fields, and the fields agree. -/
theorem decDependsOnlyOnFieldBytes : Obligations.DecDependsOnlyOnFieldBytes := by
  intro s t h1 h2 h3 h4 h5
  have hhumid := humidRaw_congr h1 h2 h3
  have htemp := tempRaw_congr h3 h4 h5
  refine ⟨_, _, exec_dec s, exec_dec t, ?_⟩
  simp [hhumid, htemp]

/-- Settles O46: the entry that ends a datapath step adds no event, and its writes are its own registers. -/
theorem datapathFrame : Obligations.DatapathFrame := by
  intro s t i hi e
  obtain ⟨st, u, hsilent, ⟨hu, hdec, hhic, hcls⟩, rfl⟩ := exec_datapath hi e
  rw [enter_of_silent hsilent, hu]
  exact ⟨rfl, rfl, rfl, rfl, rfl, rfl, rfl, rfl, rfl, rfl, rfl, hdec, hhic, hcls, fun hbusy => if_neg hbusy⟩

/-- Settles O36: the sums of frame bytes are the two fields, and the entry is split on `cmd`. -/
theorem decWritesScaledFields : Obligations.DecWritesScaledFields := by
  intro s
  simp only [← humidRaw_toNat, ← tempRaw_toNat, BitVec.ofNat_toNat, BitVec.setWidth_eq]
  refine ⟨(humidRaw s.frame).isLt, (tempRaw s.frame).isLt, ?_⟩
  rw [exec_dec, enter_of_silent (reqOf_nextState_dec s.cmd), nextState]
  split <;> rfl

end Sys2Proof.Machine
end

section
/-! SUPPORT. The comfort unit (43_comfort.md): the code of a band by its thresholds, and the whole next state of HIC and
CLS. -/

namespace Sys2Proof.Machine

/-- R114: the code of the band that the classifier picks, by the first threshold above `h`. -/
theorem classifyBand_code (h : Int) :
    (classifyBand h).code = if h < 1 then 0#3 else if h < 11 then 1#3 else if h < 18 then 2#3
      else if h < 28 then 3#3 else if h < 35 then 4#3 else 5#3 := by
  rw [classifyBand]
  split_ifs <;> rfl

/-- R112: HIC is its register write and the entry into CLS. -/
theorem exec_hic (s : State) : exec .hic s = .next (enter .cls (writeHeatIndex Config.hiPoly s)) := rfl

/-- R115: CLS is its register write and the entry into IDLE. -/
theorem exec_cls (s : State) : exec .cls s = .next (enter .idle (writeBand s)) := rfl

/-- Settles O40: the entry into CLS issues nothing and leaves `DONE`. -/
theorem hicWritesRoundedIndex : Obligations.HicWritesRoundedIndex := by
  intro s
  rw [exec_hic, enter_of_silent rfl]
  rfl

/-- Settles O42: the band's code by its thresholds, and the entry into IDLE. -/
theorem clsWritesBand : Obligations.ClsWritesBand := by
  intro s
  rw [exec_cls, enter_idle, writeBand, classifyBand_code]
  rfl

/-- Settles O43: in each band the thresholds below it fail and the one above it holds. -/
theorem classifierThresholds : Obligations.ClassifierThresholds := by
  intro h
  rw [classifyBand_code]
  refine ⟨fun _ => ?freezing, fun _ _ => ?veryCold, fun _ _ => ?cold, fun _ _ => ?nice, fun _ _ => ?veryWarm,
    fun _ => ?hot⟩
  case freezing => rw [if_pos (by omega)]
  case veryCold => rw [if_neg (by omega), if_pos (by omega)]
  case cold => rw [if_neg (by omega), if_neg (by omega), if_pos (by omega)]
  case nice => rw [if_neg (by omega), if_neg (by omega), if_neg (by omega), if_pos (by omega)]
  case veryWarm =>
    rw [if_neg (by omega), if_neg (by omega), if_neg (by omega), if_neg (by omega), if_pos (by omega)]
  case hot => rw [if_neg (by omega), if_neg (by omega), if_neg (by omega), if_neg (by omega), if_neg (by omega)]

end Sys2Proof.Machine
end

section
/-! SUPPORT. The exceptions (60_exceptions.md): the three session violations, the host writes that raise an error, and what
of `ERR`, `INITD` and `DONE` a step can change. -/

namespace Sys2Proof.Machine

/-! ## What only reset undoes -/

/-- R119, R127: from `e` to `e'` no bit is cleared, and a recorded cause stays. -/
def ErrKept (e e' : Err) : Prop :=
  (e.pre = true → e'.pre = true) ∧ (e.ovr = true → e'.ovr = true) ∧ (e.rsv = true → e'.rsv = true)
    ∧ (e.cause ≠ 0#4 → e'.cause = e.cause)

theorem errKept_refl (e : Err) : ErrKept e e := ⟨id, id, id, fun _ => rfl⟩

theorem errKept_record (e : Err) (c : ErrCause) : ErrKept e (e.record c) :=
  ⟨fun h => by simp [Err.record, h], fun h => by simp [Err.record, h], fun h => by simp [Err.record, h],
    fun h => record_cause_of_recorded h c⟩

/-- R31, R32: when a step from `s` to `t`, moved by `a`, may have set or cleared `INITD` and `DONE`. -/
def FlagsMove (a : Turn) (s t : State) : Prop :=
  (s.initd = true → t.initd = true)
    ∧ (s.initd = false → t.initd = true → a = .host ∧ s.state = .idle ∧ t.state = .iStart)
    ∧ (s.done = false → t.done = true → a = .fsm ∧ s.state ≠ .idle ∧ t.state = .idle)
    ∧ (s.done = true → t.done = false → a = .host ∧ s.state = .idle ∧ t.state ≠ .idle)

theorem flagsMove_of_eq {a : Turn} {s t : State} (hinitd : t.initd = s.initd) (hdone : t.done = s.done) :
    FlagsMove a s t := by
  rw [FlagsMove, hinitd, hdone]
  refine ⟨id, fun hf ht => ?_, fun hf ht => ?_, fun ht hf => ?_⟩ <;> exact absurd (hf.symm.trans ht) (by decide)

/-- R78: an FSM step out of a busy state sets `DONE` on the entry into IDLE, and leaves both flags otherwise. -/
theorem flagsMove_enter {s u : State} (hbusy : s.state ≠ .idle) (hinitd : u.initd = s.initd) (hdone : u.done = s.done)
    (st : FsmState) : FlagsMove .fsm s (enter st u) := by
  by_cases hst : st = .idle
  · subst hst
    rw [FlagsMove, enter_initd, hinitd]
    exact ⟨id, fun hf ht => absurd (hf.symm.trans ht) (by decide), fun _ _ => ⟨rfl, hbusy, rfl⟩, fun _ hf => nomatch hf⟩
  · exact flagsMove_of_eq (by rw [enter_initd, hinitd]) (by rw [enter_done, if_neg hst, hdone])

/-- R67: an acceptance leaves IDLE with `DONE` cleared, and only that of INIT binds a session. -/
theorem flagsMove_accept {c : BitVec 3} {s : State} (hidle : s.state = .idle) (h0 : c ≠ 0#3) (h7 : c ≠ 7#3) :
    FlagsMove .host s (accept c s) := by
  have hfirst := firstState_ne_idle h0 h7
  have hdone : (accept c s).done = false := by simp [accept, hfirst]
  refine ⟨fun hi => ?keeps, fun hf ht => ⟨rfl, hidle, ?binds⟩, fun _ ht => ?sets, fun _ _ => ⟨rfl, hidle, ?clears⟩⟩
  case keeps => simp [accept, hi]
  case binds =>
    obtain rfl : c = 1#3 := by simpa [accept, hf] using ht
    exact enter_state _ _
  case sets => exact absurd (hdone.symm.trans ht) (by decide)
  case clears => rwa [accept, enter_state]

/-- R28, R31, R32, R127: what every step from `s` to `t`, moved by `a`, obeys, reset apart. -/
def OnlyResetUndoes (a : Turn) (s t : State) : Prop :=
  ErrKept s.err t.err ∧ (t.err ≠ s.err → a = .host) ∧ FlagsMove a s t

theorem onlyResetUndoes_of_flagsMove {a : Turn} {s t : State} (herr : t.err = s.err) (h : FlagsMove a s t) :
    OnlyResetUndoes a s t :=
  ⟨herr ▸ errKept_refl s.err, absurd herr, h⟩

theorem onlyResetUndoes_of_eq {a : Turn} {s t : State} (herr : t.err = s.err) (hinitd : t.initd = s.initd)
    (hdone : t.done = s.done) : OnlyResetUndoes a s t :=
  onlyResetUndoes_of_flagsMove herr (flagsMove_of_eq hinitd hdone)

theorem onlyResetUndoes_raiseError (c : ErrCause) (s : State) : OnlyResetUndoes .host s (raiseError c s) :=
  ⟨errKept_record s.err c, fun _ => rfl, flagsMove_of_eq rfl rfl⟩

theorem onlyResetUndoes_enter {s u : State} (hbusy : s.state ≠ .idle) (herr : u.err = s.err) (hinitd : u.initd = s.initd)
    (hdone : u.done = s.done) (st : FsmState) : OnlyResetUndoes .fsm s (enter st u) :=
  onlyResetUndoes_of_flagsMove ((enter_err st u).trans herr) (flagsMove_enter hbusy hinitd hdone st)

theorem onlyResetUndoes_accept {c : BitVec 3} {s : State} (hidle : s.state = .idle) (h0 : c ≠ 0#3) (h7 : c ≠ 7#3) :
    OnlyResetUndoes .host s (accept c s) :=
  onlyResetUndoes_of_flagsMove (enter_err _ _) (flagsMove_accept hidle h0 h7)

theorem onlyResetUndoes_hostWriteEffect (off : BitVec 8) (v : Word) (s : State) :
    OnlyResetUndoes .host s (hostWriteEffect off v s) := by
  by_cases hidle : s.state = .idle
  · exact hostWriteEffect_keeps off v (onlyResetUndoes_of_eq rfl rfl rfl) (fun c => onlyResetUndoes_raiseError c s)
      (fun _ => onlyResetUndoes_of_eq rfl rfl rfl) (fun _ => onlyResetUndoes_of_eq rfl rfl rfl)
      fun _ h0 h7 _ => onlyResetUndoes_accept hidle h0 h7
  · rcases hostWriteEffect_of_busy hidle off v with e | e <;> rw [e]
    · exact onlyResetUndoes_of_eq rfl rfl rfl
    · exact onlyResetUndoes_raiseError .ovr s

theorem moved_onlyResetUndoes {a : Turn} {s t : State} (m : Moved s a t) (ha : a ≠ .reset) : OnlyResetUndoes a s t := by
  cases m with
  | hold => exact onlyResetUndoes_of_eq rfl rfl rfl
  | read => exact onlyResetUndoes_of_eq rfl rfl rfl
  | wrote hs off v => exact onlyResetUndoes_hostWriteEffect off v (logEvent (.hostWrite off v) { s with host := hs })
  | bus =>
    split
    · exact onlyResetUndoes_of_eq (drawByte_err s) (drawByte_initd s) (drawByte_done s)
    · exact onlyResetUndoes_of_eq rfl rfl rfl
  | tmr => exact onlyResetUndoes_of_eq rfl rfl rfl
  | consume d _ hbusy =>
    exact onlyResetUndoes_enter hbusy (readEffect_err _ d s) (readEffect_initd _ d s) (readEffect_done _ d s) _
  | dec hst => exact onlyResetUndoes_enter (u := decodeFrame s) (by simp [hst]) rfl rfl rfl _
  | hic hst => exact onlyResetUndoes_enter (u := writeHeatIndex Config.hiPoly s) (by simp [hst]) rfl rfl rfl _
  | cls hst => exact onlyResetUndoes_enter (u := writeBand s) (by simp [hst]) rfl rfl rfl _
  | reset => exact absurd rfl ha
  | busHang => exact onlyResetUndoes_of_eq rfl rfl rfl
  | tmrHang => exact onlyResetUndoes_of_eq rfl rfl rfl

/-- Settles O53, by the shapes a step can have. -/
theorem onlyResetClearsErrorsAndSession : Obligations.OnlyResetClearsErrorsAndSession := by
  intro s t ha e
  obtain ⟨ts, n, m⟩ := step_moved e
  obtain ⟨⟨hpre, hovr, hrsv, hcause⟩, herr, hflags⟩ := moved_onlyResetUndoes m ha
  exact ⟨hpre, hovr, hrsv, hcause, herr, hflags⟩

/-! ## The host writes that raise an error -/

/-- R120: the commands that do not fit the session: a read outside one, and INIT inside one. -/
def ViolatesSession (c : BitVec 3) (s : State) : Prop :=
  (c = 2#3 ∨ c = 6#3) ∧ s.initd = false ∨ c = 1#3 ∧ s.initd = true

/-- R66, R120: a session violation passes the checks for a busy block and a reserved command, and then raises `PRE`. -/
theorem commandIssue_of_violation {c : BitVec 3} {s : State} (hidle : s.state = .idle) (h : ViolatesSession c s) :
    commandIssue c s = raiseError .pre s := by
  obtain ⟨h0, h7⟩ : c ≠ 0#3 ∧ c ≠ 7#3 := by
    rcases h with ⟨rfl | rfl, -⟩ | ⟨rfl, -⟩ <;> decide
  rw [commandIssue, if_neg h0, if_neg (not_not.2 hidle), if_neg h7]
  rcases h with h | h
  · rw [if_pos h]
  · rw [if_pos h, ite_self]

theorem record_pre (e : Err) :
    e.record .pre = { e with pre := true, cause := if e.cause = 0#4 then 1#4 else e.cause } := by
  simp [Err.record, ErrCause.code]

/-- R121: the host writes that raise `OVR` in a busy block. -/
theorem hostWriteEffect_overrun {s : State} (hbusy : s.state ≠ .idle) {off : BitVec 8} {v : Word}
    (h : (off = 0x00#8 ∧ cmdField v ≠ 0#3) ∨ off = 0x0C#8 ∨ off = 0x10#8 ∨ off = 0x24#8) :
    hostWriteEffect off v s = raiseError .ovr s := by
  rcases h with ⟨rfl, hcmd⟩ | hdata
  · exact commandIssue_of_busy hcmd hbusy
  · exact hostWriteEffect_data_of_busy hdata hbusy v

/-- R119: a host write that changes `ERR` has no other effect. -/
theorem hostWriteEffect_of_err_ne {off : BitVec 8} {v : Word} {s : State}
    (h : (hostWriteEffect off v s).err ≠ s.err) :
    hostWriteEffect off v s = { s with err := (hostWriteEffect off v s).err } := by
  rcases hostWriteEffect_cases off v s with
    ⟨-, e⟩ | ⟨-, -, e⟩ | ⟨-, -, e⟩ | ⟨-, -, e⟩ | ⟨-, -, e⟩ | ⟨-, -, -, -, e⟩ <;> rw [e] at h ⊢
  case inl =>
    obtain ⟨-, ⟨herr, -⟩ | ⟨_, hheld⟩⟩ := commandIssue_accepts_or_holds (cmdField v) s
    · exact absurd herr h
    · rw [hheld]
  case inr.inl => rfl
  all_goals exact absurd rfl h

/-- R41, R119: a write whose effect is a raised error leaves that error and its event. -/
theorem exec_hostWrite_of_raise {off : BitVec 8} (ha : wordAligned off = true) {v : Word} {s : State} {c : ErrCause}
    (h : hostWriteEffect off v (logEvent (.hostWrite off v) s) = raiseError c (logEvent (.hostWrite off v) s)) :
    exec (.hostWrite off v) s = .next { raiseError c s with trace := s.trace ++ [.hostWrite off v] } := by
  rw [exec_hostWrite ha, h]
  rfl

/-- R120: a session violation written to `CTRL`. -/
theorem exec_hostWrite_of_violation {s : State} {v : Word} (hidle : s.state = .idle)
    (h : ViolatesSession (cmdField v) s) :
    exec (.hostWrite 0x00#8 v) s = .next { raiseError .pre s with trace := s.trace ++ [.hostWrite 0x00#8 v] } :=
  exec_hostWrite_of_raise rfl (commandIssue_of_violation (s := logEvent (.hostWrite 0x00#8 v) s) hidle h)

/-- Settles O19: the write of the command's word raises `PRE`. -/
theorem sessionViolationRecordsPre : Obligations.SessionViolationRecordsPre := by
  intro s v hidle h
  rw [← ctrlWriteIssuesCommand s v, exec_hostWrite_of_violation hidle h, raiseError, record_pre]

/-- Settles O20: the three recordings, the writes that raise each of the three, and what a change of `ERR` says of the
write that made it. -/
theorem raisedErrorChangesOnlyErr : Obligations.RaisedErrorChangesOnlyErr := by
  intro s
  refine ⟨by rw [raiseError, record_pre], by rw [raiseError, record_ovr], by rw [raiseError, record_rsv], ?overrun,
    ?reserved, fun v hidle h => exec_hostWrite_of_violation hidle h, ?changed⟩
  case overrun =>
    intro off v hbusy h
    have ha : wordAligned off = true := by rcases h with ⟨rfl, -⟩ | rfl | rfl | rfl <;> rfl
    exact exec_hostWrite_of_raise ha (hostWriteEffect_overrun (s := logEvent (.hostWrite off v) s) hbusy h)
  case reserved =>
    intro v hidle hcmd
    refine exec_hostWrite_of_raise rfl ?_
    rw [hostWriteEffect, hcmd]
    exact commandIssue_reserved_of_idle hidle
  case changed =>
    intro off v t e hne
    obtain rfl := eq_of_exec_hostWrite e
    exact hostWriteEffect_of_err_ne (s := logEvent (.hostWrite off v) s) hne

end Sys2Proof.Machine
end

section
/-! SUPPORT. Reset and hazards (70_reset_and_hazards.md): with no request outstanding there is nothing to complete. -/

namespace Sys2Proof.Machine

theorem not_awaits_of_req_none {s : State} (h : s.req = none) (r : Request) : ¬ awaits r s := by
  rintro ⟨hr, -⟩
  rw [h] at hr
  cases hr

/-- R136: with no request outstanding, a completion that carries nothing is ignored. -/
theorem completePlain_of_req_none {s : State} (h : s.req = none) (r : Request) : completePlain r s = s :=
  completePlain_of_not (not_awaits_of_req_none h r)

/-- R136: with no request outstanding, a READ completion is ignored, and no byte is drawn. -/
theorem completeRead_of_req_none {s : State} (h : s.req = none) (r : Request) : completeRead r s = s :=
  completeRead_of_not (not_awaits_of_req_none h r)

/-- R136: reset abandons the outstanding request, and its empty history has no clean-up request. -/
theorem resetBlock_abandons (s : State) : (resetBlock s).req = none ∧ issues (resetBlock s).trace = [] := ⟨rfl, rfl⟩

/-- Settles O12: each provider operation is a completion, which finds no request outstanding. -/
theorem lateCompletionIgnored : Obligations.LateCompletionIgnored := by
  refine ⟨fun s => ⟨rfl, resetBlock_abandons s⟩, fun s h => ?late⟩
  have hplain (r : Request) : Host.Outcome.next (completePlain r s) = (.next s : Result) :=
    congrArg _ (completePlain_of_req_none h r)
  have hread (r : Request) : Host.Outcome.next (completeRead r s) = (.next s : Result) :=
    congrArg _ (completeRead_of_req_none h r)
  exact ⟨hplain reqStart, hplain reqStop, fun a => hplain (reqAddrW a), fun a => hplain (reqAddrR a),
    fun b => hplain (reqWrite b), hread (reqRead true), hread (reqRead false), fun n => hplain (.delay n)⟩

end Sys2Proof.Machine
end

section
/-! SUPPORT. The encoding (30_encoding.md): every word is the packing of its own fields, so decoding and encoding are
inverse to each other; and the bus words that no row of R58's table gives. -/

namespace Sys2Proof.Machine

/-! ## From an instruction to its word and back -/

/-- R56, R58: decoding a bus request's word is a choice on its three fields. -/
theorem decode_busopWord (op : BitVec 3) (arg : Byte) (ack : Bool) :
    decode (.busop (busopWord op arg ack))
      = if op = 0#3 then if arg = 0#8 ∧ ack = false then .ok .start else .error .busOperand
        else if op = 1#3 then if arg = 0#8 ∧ ack = false then .ok .stop else .error .busOperand
        else if op = 2#3 then
          if arg.getLsbD 7 = false ∧ ack = false then .ok (.addrW (arg.extractLsb' 0 7)) else .error .busOperand
        else if op = 3#3 then
          if arg.getLsbD 7 = false ∧ ack = false then .ok (.addrR (arg.extractLsb' 0 7)) else .error .busOperand
        else if op = 4#3 then if ack = false then .ok (.write arg) else .error .busOperand
        else if op = 5#3 then
          if arg = 0#8 then .ok (if ack = true then .readAck else .readNak) else .error .busOperand
        else .error .busOpcode := by
  simp only [decode, decodeBusop, busopWord_op, busopWord_arg, busopWord_ack]

/-- R39, R60: with a word offset, a host access's word decodes to the access it was made of. -/
theorem decode_hostaccWord {off : BitVec 8} (h : wordAligned off = true) (we : Bool) (v : Word) :
    decode (.hostacc (hostaccWord we off v)) = .ok (if we = true then .hostWrite off v else .hostRead off v) := by
  simp only [decode, decodeHostacc, hostaccWord_index, hostaccWord_data, hostaccWord_we, offset_of_index off h]

/-- Settles O1, format by format: the fields of each word are read back, and select the same row. -/
theorem encodedInstructionDecodesBack : Obligations.EncodedInstructionDecodesBack := by
  intro i hwf
  cases i with
  | nop _ | init _ | readRaw _ | decode _ | derive _ | classify _ | measure _ | reserved _ =>
    simp [encode, decode, decodeCtrl]
  | start | stop | addrW _ | addrR _ | write _ | readAck | readNak => simp [encode, decode_busopWord]
  | delay _ => rfl
  | hostRead off lanes => exact decode_hostaccWord hwf false lanes
  | hostWrite off v => exact decode_hostaccWord hwf true v
  | dec | hic | cls => rfl

/-! ## From a word to its instruction and back -/

/-- A single bit is the field of length one at its place. -/
theorem ofBool_getLsbD {n : Nat} (w : BitVec n) (k : Nat) : BitVec.ofBool (w.getLsbD k) = w.extractLsb' k 1 := by
  apply BitVec.eq_of_getLsbD_eq
  intro i hi
  obtain rfl : i = 0 := by omega
  simp

/-- R56: a bus word is its `op`, `arg` and `ack`. -/
theorem busopWord_fields (w : BitVec 12) :
    busopWord (w.extractLsb' 9 3) (w.extractLsb' 1 8) (w.getLsbD 0) = w := by
  rw [busopWord, ofBool_getLsbD, BitVec.extractLsb'_append_extractLsb'_eq_extractLsb' (len₁ := 8) (start₁ := 1) rfl,
    BitVec.extractLsb'_append_extractLsb'_eq_extractLsb' (len₁ := 1) (start₁ := 0) rfl]
  exact BitVec.extractLsb'_eq_self

/-- R56, R60: a host access's word is its `we`, its word index and its data. -/
theorem hostaccWord_fields (w : BitVec 39) :
    hostaccWord (w.getLsbD 38) (w.extractLsb' 32 6 ++ 0#2) (w.extractLsb' 0 32) = w := by
  rw [hostaccWord, extract_high, ofBool_getLsbD, BitVec.extractLsb'_append_extractLsb'_eq_extractLsb' (len₁ := 6) (start₁ := 32) rfl,
    BitVec.extractLsb'_append_extractLsb'_eq_extractLsb' (len₁ := 32) (start₁ := 0) rfl]
  exact BitVec.extractLsb'_eq_self

/-- The datum is the word of a well-formed instruction. -/
def IsWordOf (d : Datum) (i : Instr) : Prop := i.wf = true ∧ encode i = d

/-- R57: every `CTRL` word is a command's, the ignored bits included. -/
theorem isWordOf_decodeCtrl (w : Word) : IsWordOf (.ctrl w) (decodeCtrl w) := by
  have codes (c : BitVec 3) :
      c = 0#3 ∨ c = 1#3 ∨ c = 2#3 ∨ c = 3#3 ∨ c = 4#3 ∨ c = 5#3 ∨ c = 6#3 ∨ c = 7#3 := by revert c; decide
  rw [← ctrlWord_fields w]
  generalize w.extractLsb' 3 29 = ign
  rcases codes (w.extractLsb' 0 3) with h | h | h | h | h | h | h | h <;>
    simp [h, IsWordOf, decodeCtrl, encode, Instr.wf]

/-- R58: a bus word that decodes holds the fields of its row. -/
theorem isWordOf_of_decode_busop {op : BitVec 3} {arg : Byte} {ack : Bool} {i : Instr}
    (h : decode (.busop (busopWord op arg ack)) = .ok i) : IsWordOf (.busop (busopWord op arg ack)) i := by
  rw [decode_busopWord] at h
  split_ifs at h with h0 ha h1 ha h2 ha h3 ha h4 ha h5 ha hack <;> cases h
  · simp [IsWordOf, encode, Instr.wf, h0, ha]
  · simp [IsWordOf, encode, Instr.wf, h1, ha]
  · simp [IsWordOf, encode, Instr.wf, h2, ha, arg_of_addr arg ha.1]
  · simp [IsWordOf, encode, Instr.wf, h3, ha, arg_of_addr arg ha.1]
  · simp [IsWordOf, encode, Instr.wf, h4, ha]
  · simp [IsWordOf, encode, Instr.wf, h5, ha, hack]
  · simp [IsWordOf, encode, Instr.wf, h5, ha, hack]

/-- R60: every `HOSTACC` word is an access's. -/
theorem isWordOf_decodeHostacc (w : BitVec 39) : IsWordOf (.hostacc w) (decodeHostacc w) := by
  have hword := hostaccWord_fields w
  unfold decodeHostacc
  cases hwe : w.getLsbD 38 <;>
    · rw [hwe] at hword
      exact ⟨wordAligned_index _, congrArg _ hword⟩

/-- R77: a state code that decodes is the one of its datapath state. -/
theorem isWordOf_of_decode_fsmstate {w : BitVec 5} {i : Instr} (h : decode (.fsmstate w) = .ok i) :
    IsWordOf (.fsmstate w) i := by
  rw [decode, decodeFsmstate] at h
  split_ifs at h with hdec hhic hcls <;> cases h
  · exact ⟨rfl, congrArg _ hdec.symm⟩
  · exact ⟨rfl, congrArg _ hhic.symm⟩
  · exact ⟨rfl, congrArg _ hcls.symm⟩

/-- Settles O2, format by format. -/
theorem acceptedDatumReencodes : Obligations.AcceptedDatumReencodes := by
  intro d i h
  cases d with
  | ctrl w =>
    obtain rfl := Except.ok.inj h
    exact isWordOf_decodeCtrl w
  | busop w =>
    rw [← busopWord_fields w] at h ⊢
    exact isWordOf_of_decode_busop h
  | dlyop w =>
    obtain rfl := Except.ok.inj h
    exact ⟨rfl, rfl⟩
  | hostacc w =>
    obtain rfl := Except.ok.inj h
    exact isWordOf_decodeHostacc w
  | fsmstate w => exact isWordOf_of_decode_fsmstate h

/-! ## Bus words that are never issued -/

/-- R59, R61: every request of the FSM is the word of an operation that the block may issue. -/
theorem isWordOf_datum_of_reqOf {st : FsmState} {r : Request} (h : reqOf st = some r) :
    ∃ i, IsWordOf r.datum i ∧ i.issuable = true := by
  cases st <;> cases h
  case iStart | tStart | rStart => exact ⟨.start, ⟨rfl, rfl⟩, rfl⟩
  case iStop | tStop | rStop => exact ⟨.stop, ⟨rfl, rfl⟩, rfl⟩
  case iAddr | tAddr => exact ⟨.addrW Config.devAddr, ⟨rfl, rfl⟩, rfl⟩
  case rAddr => exact ⟨.addrR Config.devAddr, ⟨rfl, rfl⟩, rfl⟩
  case iCmd0 | iCmd1 | iCmd2 | tCmd0 | tCmd1 | tCmd2 => exact ⟨.write _, ⟨rfl, rfl⟩, rfl⟩
  case rB0 | rB1 | rB2 | rB3 | rB4 => exact ⟨.readAck, ⟨rfl, rfl⟩, rfl⟩
  case rB5 => exact ⟨.readNak, ⟨rfl, rfl⟩, rfl⟩
  case iWait | tWait | rWait => exact ⟨.delay _, ⟨rfl, rfl⟩, by simp [Instr.issuable]⟩

/-- Settles O4: the words that are rejected by the choice on the fields, and those that decode as words of their
instruction. -/
theorem neverIssuedBusWordsRejected : Obligations.NeverIssuedBusWordsRejected := by
  have roundTrip := encodedInstructionDecodesBack
  refine ⟨?opcode, ?bare, ?address, ?write, ?read, ?otherAddress, ?otherByte, ?issued⟩
  case opcode => rintro op arg ack (rfl | rfl) <;> simp [decode_busopWord]
  case bare => rintro op arg ack (rfl | rfl) (h | h) <;> simp [decode_busopWord, h]
  case address => rintro op arg ack (rfl | rfl) (h | h) <;> simp [decode_busopWord, h]
  case write => simp [decode_busopWord]
  case read =>
    intro arg ack h
    simp [decode_busopWord, h]
  case otherAddress =>
    intro a h
    have hissue : (a == Config.devAddr) = false := beq_eq_false_iff_ne.mpr h
    exact ⟨roundTrip (.addrW a) rfl, hissue, roundTrip (.addrR a) rfl, hissue⟩
  case otherByte =>
    intro b h
    exact ⟨roundTrip (.write b) rfl, by simp_all [Instr.issuable, Config.initSeq, Config.trigSeq]⟩
  case issued =>
    intro st r h
    obtain ⟨i, ⟨hwf, hword⟩, hissue⟩ := isWordOf_datum_of_reqOf h
    exact ⟨i, hword ▸ roundTrip i hwf, hissue⟩

end Sys2Proof.Machine
end

section
/-! SUPPORT. The host port (20_memory.md, R38, R39): which platform accesses become an access of the block. -/

namespace Sys2Proof.Machine

/-! ## Which addresses reach the port -/

/-- R38: an access outside the window. -/
theorem platformOffset_outside {addr : Nat} (h : addr < Config.base ∨ Config.base + 256 ≤ addr) (n : Nat) :
    platformOffset addr n = .error .outsideWindow := if_pos h

/-- R39: an access inside the window that is not one aligned word. -/
theorem platformOffset_notWord {k n : Nat} (hk : k < 256) (h : n ≠ 4 ∨ k % 4 ≠ 0) :
    platformOffset (Config.base + k) n = .error .notWordAccess := by
  rw [platformOffset, Nat.add_sub_cancel_left, if_neg (by omega), if_pos h]

/-- R38: an aligned word inside the window. -/
theorem platformOffset_word {k : Nat} (hk : k < 256) (h : k % 4 = 0) :
    platformOffset (Config.base + k) 4 = .ok (BitVec.ofNat 8 k) := by
  rw [platformOffset, Nat.add_sub_cancel_left, if_neg (by omega), if_neg (by omega)]

/-! ## What a platform access puts on the port -/

/-- R38, R39: a refused address is a refused read and a refused write. -/
theorem platform_datum_of_error {addr n : Nat} {e : Refusal} (h : platformOffset addr n = .error e) :
    (HostOp.memRead addr n).datum = .error e ∧ ∀ v, (HostOp.memWrite addr n v).datum = .error e := by
  simp [HostOp.datum, h]

/-- R38: an address that reaches the port is a read or a write of its offset. -/
theorem platform_datum_of_ok {addr n : Nat} {off : BitVec 8} (h : platformOffset addr n = .ok off) :
    (HostOp.memRead addr n).datum = .ok (encode (.hostRead off 0#32))
      ∧ ∀ v, (HostOp.memWrite addr n v).datum = .ok (encode (.hostWrite off v)) := by
  simp [HostOp.datum, h, encode]

/-- R39: a host access at an offset that is no word offset has no step. -/
theorem exec_hostAccess_of_misaligned {off : BitVec 8} (h : wordAligned off = false) (v : Word) (s : State) :
    exec (.hostRead off v) s = .refused .notWordAccess ∧ exec (.hostWrite off v) s = .refused .notWordAccess :=
  have hneg : ¬ wordAligned off = true := by simp [h]
  ⟨if_neg hneg, if_neg hneg⟩

/-- Settles O29: an address has an offset at the port, or one of the two refusals. -/
theorem onlyAlignedWordsReachThePort : Obligations.OnlyAlignedWordsReachThePort :=
  ⟨fun s _ v h => exec_hostAccess_of_misaligned h v s,
    fun _ _ hk h => platform_datum_of_error (platformOffset_notWord hk h),
    fun _ hk h => platform_datum_of_ok (platformOffset_word hk h),
    fun _ n h => platform_datum_of_error (platformOffset_outside h n)⟩

end Sys2Proof.Machine
end

section
/-! SUPPORT. The decoder's fields and values (42_decoder.md, sections 2 to 4). -/

namespace Sys2Proof.Machine

/-- R100: the humidity field as a sum, which reads the high nibble of `frame[3]`. -/
theorem humidRaw_toNat_eq_sum (f : Frame) :
    (humidRaw f).toNat = f.b1.toNat * 2 ^ 12 + f.b2.toNat * 2 ^ 4 + f.b3.toNat / 16 := by
  rw [humidRaw_toNat]
  omega

/-- Settles O37: each field is a sum in which `frame[3]` stands by one of its nibbles. -/
theorem rawFieldLayout : Obligations.RawFieldLayout := by
  intro f
  refine ⟨humidRaw_toNat_eq_sum f, tempRaw_toNat f,
    fun b => ⟨fun hhigh => BitVec.eq_of_toNat_eq ?humid, fun hlow => BitVec.eq_of_toNat_eq ?temp⟩⟩
  case humid => rw [humidRaw_toNat_eq_sum, humidRaw_toNat_eq_sum, hhigh]
  case temp => rw [tempRaw_toNat, tempRaw_toNat, hlow]

/-- Settles O39: the bounds of the two scalings, and the divisions at the corner values. -/
theorem decoderRanges : Obligations.DecoderRanges := by
  refine ⟨fun f => ?bounds, fun tr h => ?coldest, fun hr h => ?driest, by decide⟩
  case bounds =>
    obtain ⟨hlo, hhi⟩ := centiTemp_bounds (tempRaw f)
    exact ⟨hlo, hhi, s32_wrap32_centiTemp (tempRaw f), humPercent_le (humidRaw f)⟩
  case coldest =>
    rw [centiTemp]
    omega
  case driest => exact Nat.div_eq_of_lt (by omega)

end Sys2Proof.Machine
end

section
/-! SUPPORT. The comfort unit's functions (43_comfort.md): rounding half away from zero, the reference heat index, and the
classifier. -/

namespace Sys2Proof.Machine

/-! ## Rounding half away from zero -/

theorem rhaz_of_nonneg {x : Rat} (h : 0 ≤ x) : rhaz x = (x + 1 / 2).floor := if_pos h

theorem rhaz_of_neg {x : Rat} (h : x < 0) : rhaz x = -(-x + 1 / 2).floor := if_neg h.not_ge

theorem rhaz_zero : rhaz 0 = 0 := by decide +kernel

/-- R111: the two branches mirror each other. -/
theorem rhaz_neg (x : Rat) : rhaz (-x) = -rhaz x := by
  rcases lt_trichotomy x 0 with h | rfl | h
  · rw [rhaz_of_neg h, rhaz_of_nonneg (by linarith), neg_neg]
  · rw [neg_zero, rhaz_zero, neg_zero]
  · rw [rhaz_of_nonneg h.le, rhaz_of_neg (by linarith), neg_neg]

/-- R111: from zero up, the result is the integer in a half-open interval about `x`, which takes the half above. -/
theorem rhaz_near_of_nonneg {x : Rat} (h : 0 ≤ x) : x - 1 / 2 < rhaz x ∧ (rhaz x : Rat) ≤ x + 1 / 2 := by
  rw [rhaz_of_nonneg h]
  have hlt := Rat.lt_floor_add_one (x + 1 / 2)
  push_cast at hlt
  exact ⟨by linarith, Rat.floor_le _⟩

/-- R111: the result is a nearest integer, and of two nearest ones the one farther from zero. -/
def RoundsAway (x : Rat) (n : Int) : Prop :=
  |x - (n : Rat)| ≤ 1 / 2 ∧ (|x - (n : Rat)| = 1 / 2 → |x| < |(n : Rat)|)

theorem roundsAway_neg {x : Rat} {n : Int} (h : RoundsAway x n) : RoundsAway (-x) (-n) := by
  have hdist : |-x - ((-n : Int) : Rat)| = |x - (n : Rat)| := by
    rw [Int.cast_neg, ← neg_sub', abs_neg]
  rw [RoundsAway, hdist, Int.cast_neg, abs_neg, abs_neg]
  exact h

theorem roundsAway_of_nonneg {x : Rat} (h : 0 ≤ x) : RoundsAway x (rhaz x) := by
  obtain ⟨hlo, hhi⟩ := rhaz_near_of_nonneg h
  refine ⟨abs_le.mpr ⟨by linarith, by linarith⟩, fun hhalf => ?_⟩
  have habove : (rhaz x : Rat) = x + 1 / 2 := by
    rcases (abs_eq (by norm_num)).mp hhalf with h' | h' <;> linarith
  rw [habove, abs_of_nonneg h, abs_of_nonneg (by linarith)]
  linarith

/-- R111, below zero by the mirror image. -/
theorem roundsAway_rhaz (x : Rat) : RoundsAway x (rhaz x) := by
  rcases le_total 0 x with h | h
  · exact roundsAway_of_nonneg h
  · have hmirror := roundsAway_neg (roundsAway_of_nonneg (neg_nonneg.mpr h))
    rwa [rhaz_neg, neg_neg, neg_neg] at hmirror

/-- U12: an integer is its own nearest integer. -/
theorem rhaz_intCast (n : Int) : rhaz (n : Rat) = n := by
  obtain ⟨hnear, -⟩ := roundsAway_rhaz (n : Rat)
  have hlt : |n - rhaz (n : Rat)| < 1 := by
    have : |((n - rhaz (n : Rat) : Int) : Rat)| < 1 := by push_cast; linarith
    exact_mod_cast this
  have := Int.abs_lt_one_iff.mp hlt
  omega

/-- Settles O41: the definition's two branches, and what follows from them. -/
theorem roundsHalfAwayFromZero : Obligations.RoundsHalfAwayFromZero := by
  intro x
  obtain ⟨hnear, haway⟩ := roundsAway_rhaz x
  exact ⟨rhaz_of_nonneg, rhaz_of_neg, hnear, haway, rhaz_neg x, rhaz_intCast⟩

/-! ## The reference heat index -/

/-- R113: the largest magnitude of a monomial, by those of its variables. -/
theorem abs_monomial_le {t r T R : Rat} (ht : |t| ≤ T) (hr : |r| ≤ R) (i j : Nat) :
    |t ^ i * r ^ j| ≤ T ^ i * R ^ j := by
  have hT : 0 ≤ T := (abs_nonneg t).trans ht
  rw [abs_mul, abs_pow, abs_pow]
  gcongr

/-- R113: the sum of the nine terms' largest magnitudes stays below 9872. -/
theorem abs_heatRegression_lt {t r : Rat} (ht : |t| ≤ 149.99) (hr : |r| ≤ 99) : |heatRegression t r| < 9872 := by
  have monomial (i j : Nat) := abs_le.mp (abs_monomial_le ht hr i j)
  obtain ⟨l10, u10⟩ := monomial 1 0
  obtain ⟨l01, u01⟩ := monomial 0 1
  obtain ⟨l11, u11⟩ := monomial 1 1
  obtain ⟨l20, u20⟩ := monomial 2 0
  obtain ⟨l02, u02⟩ := monomial 0 2
  obtain ⟨l21, u21⟩ := monomial 2 1
  obtain ⟨l12, u12⟩ := monomial 1 2
  obtain ⟨l22, u22⟩ := monomial 2 2
  rw [heatRegression, abs_lt]
  constructor <;> linarith

/-- R108, R113: the decoder's outputs as the regression's arguments. -/
theorem abs_hiRef_lt {temp hum : Int} (hlo : -5000 ≤ temp) (hhi : temp ≤ 14999) (hdry : 0 ≤ hum) (hwet : hum ≤ 99) :
    |hiRef temp hum| < 9872 := by
  have hlo' : (-5000 : Rat) ≤ temp := by exact_mod_cast hlo
  have hhi' : (temp : Rat) ≤ 14999 := by exact_mod_cast hhi
  have hdry' : (0 : Rat) ≤ hum := by exact_mod_cast hdry
  have hwet' : (hum : Rat) ≤ 99 := by exact_mod_cast hwet
  exact abs_heatRegression_lt (abs_le.mpr ⟨by linarith, by linarith⟩) (abs_le.mpr ⟨by linarith, hwet'⟩)

/-- R111: rounding moves a value by less than one. -/
theorem abs_rhaz_lt {x : Rat} {b : Int} (h : |x| < b) : |rhaz x| < b + 1 := by
  obtain ⟨hnear, -⟩ := roundsAway_rhaz x
  have htri := abs_sub_abs_le_abs_sub (rhaz x : Rat) x
  rw [abs_sub_comm] at htri
  have : |(rhaz x : Rat)| < b + 1 := by linarith
  exact_mod_cast this

/-- Settles O45: the bound of R113, and the room that it leaves in 32 bits. -/
theorem referenceIndexBounded : Obligations.ReferenceIndexBounded := by
  intro temp hum hlo hhi hdry hwet
  have hbound := abs_hiRef_lt hlo hhi hdry hwet
  obtain ⟨hl, hu⟩ := abs_lt.mp (abs_rhaz_lt (b := 9872) hbound)
  exact ⟨hbound, s32_wrap32 (by omega) (by omega)⟩

/-! ## The classifier -/

/-- The five thresholds of R114. -/
def thresholds : List Int := [1, 11, 18, 28, 35]

/-- R114: a band's code is the number of thresholds that `h` has reached. -/
theorem classifyBand_code_eq_countP (h : Int) :
    (classifyBand h).code.toNat = thresholds.countP (fun t => decide (t ≤ h)) := by
  rw [classifyBand_code, thresholds]
  simp only [List.countP_cons, List.countP_nil, decide_eq_true_eq]
  grind

/-- Settles O44: a larger value has reached every threshold that a smaller one has, and there are five. -/
theorem classifierMonotone : Obligations.ClassifierMonotone := by
  intro h k hhk
  rw [classifyBand_code_eq_countP, classifyBand_code_eq_countP]
  refine ⟨List.countP_mono_left fun t _ ht => ?_, List.countP_le_length⟩
  simp only [decide_eq_true_eq] at ht ⊢
  exact ht.trans hhk

end Sys2Proof.Machine
end
